-- ==== Sys2Proof/Word.lean ====
section
/-! DEFINITION. The value types of the engine: bits, bit sequences by position, and the words of its ports.

`BitSeq n`, the spec's `Seq(n)`, is a `BitVec n` whose position p (00_scope.md R9: "Index 0 is the most-significant/first position") is the
conventional bit n - 1 - p (R10), so that `val(B)` of the spec is `B.toNat`. -/
namespace Sys2Proof

/-- "a binary digit, value 0 or 1" (R9); `true` is 1. -/
abbrev Bit := Bool

/-- `Seq(n)`: an ordered sequence of exactly n Bits at positions 0 .. n-1 (R9). -/
abbrev BitSeq (n : Nat) := BitVec n

/-- A Block is a `Seq(27)` (R9, R12). -/
abbrev Block := BitSeq 27

/-- The 27-bit BigKey of one round (R6, R56). -/
abbrev BigKeyBits := BitSeq 27

/-- The 18-bit SmallKey of one round (R6, R56). -/
abbrev SmallKeyBits := BitSeq 18

/-- An 8-bit character operand (R12, R83). -/
abbrev Character := BitVec 8

/-- The 12-bit command word of the `cmd` port (R80). -/
abbrev CmdWord := BitVec 12

/-- The 9-bit control word `ST ++ DIR ++ RND` that format CTRL of the opcode table writes (R81). -/
abbrev CtrlWord := BitVec 9

/-- The Block of 27 zero Bits (R9). -/
abbrev ZERO27 : Block := 0#27

end Sys2Proof
end

