-- ==== Sys2Proof/Config.lean ====
section
/-! DEFINITION. The parameters of 00_scope.md R6 and R7. Every size is fixed; none is left to an implementation. -/
namespace Sys2Proof.Config

/-- Bits in a Block (R6). -/
abbrev BLOCK_BITS : Nat := 27
/-- Bits in a group (R6). -/
abbrev GROUP_BITS : Nat := 3
/-- Groups in a Block (R6). -/
abbrev GROUPS : Nat := 9
/-- Bits of BigKey per round (R6). -/
abbrev BIGKEY_BITS : Nat := 27
/-- Selector bits per group (R6). -/
abbrev SEL_BITS : Nat := 2
/-- Bits of SmallKey per round (R6). -/
abbrev SMALLKEY_BITS : Nat := 18
/-- Bits of one RoundKeyPair (R6). -/
abbrev ROUNDKEY_BITS : Nat := 45
/-- Rounds per operation (R6). -/
abbrev ROUNDS : Nat := 56
/-- Index of the last round when encrypting, of the first when decrypting (R28, R147). -/
abbrev LAST_ROUND : Nat := 55
/-- Size of the key buffer the source's host declares; its bits 2520 .. 2559 have no function (R6, R54). -/
abbrev KEY_DECLARED_BITS : Nat := 2560
/-- Machine steps a round takes (R7, R145, R146). -/
abbrev STEPS_PER_ROUND : Nat := 1
/-- Width of a command word (R7, R80). -/
abbrev CMD_BITS : Nat := 12
/-- Width of a character operand (R7, R83). -/
abbrev CHAR_BITS : Nat := 8
/-- Cells of the key store (R7, R50), which is `KEY_USED_BITS` of R6. -/
abbrev KEY_CELLS : Nat := 2520
/-- Multiplier of the fixed permutation (R6). -/
abbrev PERM_MUL : Nat := 3
/-- Modulus of the fixed permutation (R6). -/
abbrev PERM_MOD : Nat := 26
/-- Saturation value of the block length counter (R7). -/
abbrev BLEN_MAX : Nat := 28
/-- The character `'0'` (R7; its code is the ASCII standard's, 93_implementation_defined.md G1). -/
abbrev CH0 : Character := 0x30#8
/-- The character `'1'` (R7, G1). -/
abbrev CH1 : Character := 0x31#8

end Sys2Proof.Config
end

