-- ==== Sys2Proof/Machine/Bits.lean ====
section
/-! DEFINITION. Bit sequences by position (00_scope.md R9): reading a position, building a sequence from its positions,
writing one position, slicing, and the groups of a Block. -/
namespace Sys2Proof.Machine

/-- `B{p}`, the Bit at position p (R9). -/
def pos {n : Nat} (B : BitSeq n) (p : Nat) : Bit := B.getMsbD p

/-- The sequence whose position p is `f p`. -/
def ofPos : (n : Nat) → (Nat → Bit) → BitSeq n
  | 0, _ => 0#0
  | n + 1, f => (ofPos n f).concat (f n)

/-- `B{p} <- b`: one position written, the others kept (R11). -/
def setPos {n : Nat} (B : BitSeq n) (p : Nat) (b : Bit) : BitSeq n :=
  ofPos n fun q => if q = p then b else pos B q

/-- `B{a..a+n}`: the `Seq(n)` of positions a, .., a+n-1 (R9). -/
def slice {m : Nat} (B : BitSeq m) (a n : Nat) : BitSeq n := ofPos n fun j => pos B (a + j)

/-- The three bits of a group, in position order (R9, R108). -/
structure Group where
  c0 : Bit
  c1 : Bit
  c2 : Bit
deriving DecidableEq, Repr

/-- Bit k of a group, k = 0, 1, 2. -/
def groupBit (c : Group) (k : Nat) : Bit :=
  if k = 0 then c.c0 else if k = 1 then c.c1 else c.c2

/-- `grp(B, g)`: positions 3g, 3g+1, 3g+2 (R9). -/
def grp (B : Block) (g : Nat) : Group := ⟨pos B (3 * g), pos B (3 * g + 1), pos B (3 * g + 2)⟩

/-- The Block whose group g is `f g`. -/
def ofGroups (f : Nat → Group) : Block := ofPos 27 fun p => groupBit (f (p / 3)) (p % 3)

/-- A Block with group g replaced. -/
def setGroup (B : Block) (g : Nat) (c : Group) : Block := ofGroups fun h => if h = g then c else grp B h

end Sys2Proof.Machine
end

