-- ==== Sys2Proof/Machine/Operands.lean ====
section
/-! DEFINITION. The operand forms: the character operand (30_encoding.md R83), the selector (R87) and the group value
(R88, 40_datapath.md R114). -/
namespace Sys2Proof.Machine

/-- `CharBit(ch)`: the bit a character stands for, or nothing when the character is invalid (R83). -/
def charBit (ch : Character) : Option Bit :=
  if ch = Config.CH0 then some false
  else if ch = Config.CH1 then some true
  else none

/-- The bit stored for a character: 0 when it is invalid (R163, R164, decision D20). -/
def storedBit (ch : Character) : Bit := (charBit ch).getD false

/-- The four orderings a selector chooses among, under R87's names. -/
inductive Selector where
  | ident
  | swap01
  | swap12
  | rev
deriving DecidableEq, Repr

/-- The selector named by the pair (bit 2g, bit 2g+1) (R87). -/
def selectorOf : Bit → Bit → Selector
  | false, false => .ident
  | false, true => .swap01
  | true, false => .swap12
  | true, true => .rev

/-- `Sel(K, i, g)` seen from the SmallKey: positions 2g and 2g+1 (R56, R108). -/
def selectorAt (K18 : SmallKeyBits) (g : Nat) : Selector :=
  selectorOf (pos K18 (2 * g)) (pos K18 (2 * g + 1))

/-- The output ordering of an input group (R87, R108). -/
def shuffle : Selector → Group → Group
  | .ident, c => ⟨c.c0, c.c1, c.c2⟩
  | .swap01, c => ⟨c.c1, c.c0, c.c2⟩
  | .swap12, c => ⟨c.c0, c.c2, c.c1⟩
  | .rev, c => ⟨c.c2, c.c1, c.c0⟩

/-- `gval(c0, c1, c2) = 4×c0 + 2×c1 + c2` (R88, R114). -/
def gval (c : Group) : Nat := 4 * c.c0.toNat + 2 * c.c1.toNat + c.c2.toNat

/-- The group of a number 0..7: `c0 = w div 4`, `c1 = (w div 2) mod 2`, `c2 = w mod 2` (R114). -/
def groupOfVal (w : Nat) : Group := ⟨decide (w / 4 % 2 = 1), decide (w / 2 % 2 = 1), decide (w % 2 = 1)⟩

end Sys2Proof.Machine
end

