-- ==== Sys2Proof/Syntax.lean ====
section
/-! DEFINITION. The instructions: one constructor for each row of spec/opcode_table.json, operands raw as the encodings
hold them (which operands an encoding admits is WellFormed.lean's matter). -/
namespace Sys2Proof

/-- The direction bit `DIR` (10_state.md R29): ENCRYPT = 0, DECRYPT = 1. -/
inductive Direction where
  | encrypt
  | decrypt
deriving DecidableEq, Repr

/-- The rows of the opcode table. Format CMD: the host commands (30_encoding.md R82). Format KSEL: the four selector
values, with the group they stand at (R87). Format CTRL: the wired operations and the round step, with the fields of
the control state that selects them (R81). -/
inductive Instr where
  /-- `NOP` (R161). -/
  | nop
  /-- `CLRB`, clear the block buffer (R162). -/
  | clrb
  /-- `CLRK`, clear the key (R165). -/
  | clrk
  /-- `PUSHB ch`, append one character to the block buffer (R163). -/
  | pushb (ch : Character)
  /-- `PUSHK ch`, append one character to the key (R164). -/
  | pushk (ch : Character)
  /-- `ENC`, validate and start an encryption (R166). -/
  | enc
  /-- `DEC`, validate and start a decryption (R167). -/
  | dec
  /-- `ACK`, acknowledge a result or an error (R168). -/
  | ack
  /-- A reserved word with `op` = 0 and `ch` not 0 (R169). -/
  | reserved0 (ch : Character)
  /-- A reserved word with `op` = 1 and `ch` not 0 (R169). -/
  | reserved1 (ch : Character)
  /-- A reserved word with `op` = 2 and `ch` not 0 (R169). -/
  | reserved2 (ch : Character)
  /-- A reserved word with `op` = 5 and `ch` not 0 (R169). -/
  | reserved5 (ch : Character)
  /-- A reserved word with `op` = 6 and `ch` not 0 (R169). -/
  | reserved6 (ch : Character)
  /-- A reserved word with `op` = 7 and `ch` not 0 (R169). -/
  | reserved7 (ch : Character)
  /-- A reserved word with `op` = 8 .. 15, any `ch` (R169). -/
  | reservedHi (op : BitVec 4) (ch : Character)
  /-- Selector 00 at group g: identity (R87, R108). -/
  | selId (g : BitVec 4)
  /-- Selector 01 at group g: swap the first two bits (R87, R108). -/
  | selSwap01 (g : BitVec 4)
  /-- Selector 10 at group g: swap the last two bits (R87, R108). -/
  | selSwap12 (g : BitVec 4)
  /-- Selector 11 at group g: reverse (R87, R108). -/
  | selRev (g : BitVec 4)
  /-- The round step of round r when encrypting (R146). -/
  | roundstepEnc (r : BitVec 6)
  /-- The round step of round r when decrypting (R146). -/
  | roundstepDec (r : BitVec 6)
  /-- The mixer with BigKey r, a stage of both directions (R101). -/
  | mix (d : Direction) (r : BitVec 6)
  /-- The forward fixed permutation, a stage of encryption round r (R103). -/
  | fp (r : BitVec 6)
  /-- The inverse fixed permutation, a stage of decryption round r (R105). -/
  | fpi (r : BitVec 6)
  /-- The keyed permutation with SmallKey r, a stage of both directions (R108). -/
  | kp (d : Direction) (r : BitVec 6)
  /-- The forward substitution, a stage of encryption round r (R111). -/
  | sb (r : BitVec 6)
  /-- The inverse substitution, a stage of decryption round r (R112). -/
  | sbi (r : BitVec 6)
  /-- The encryption round with round key r (R130). -/
  | encr (r : BitVec 6)
  /-- The decryption round with round key r (R131). -/
  | decr (r : BitVec 6)
  /-- The 56-round encryption (R141). -/
  | encrypt
  /-- The 56-round decryption (R142). -/
  | decrypt
deriving DecidableEq, Repr

end Sys2Proof
end

