-- ==== Sys2Proof/Machine/State.lean ====
section
/-! DEFINITION. The state of one engine: the ten items of 10_state.md R20, and the host's pending inputs. -/
namespace Sys2Proof.Machine

/-- The controller state `ST` (R27). -/
inductive Ctl where
  | idle
  | busy
  | done
  | error
deriving DecidableEq, Repr

/-- The error code `ERR` (R30). -/
inductive ErrCode where
  | none
  | errBlock
  | errKey
  | errCmd
deriving DecidableEq, Repr

/-- One cell of the key store: its bit address and its bit (20_memory.md R50: "The unit of addressing is the bit"). -/
abbrev KeyCell := Nat × Bit

/-- The written cells of the key store, addresses strictly rising and below 2520 (`Memory.wf`). A cell that is not
listed has never been written and has no value (R37, 93_implementation_defined.md U2; notes/assumptions/2.md). -/
abbrev Memory := List KeyCell

/-- What the host presents at one step (R32): the reset input and the command word. -/
structure HostInput where
  rst : Bool
  cmd : CmdWord
deriving DecidableEq, Repr

/-- The state of one engine. The first ten fields are R20's, under its names; `inputs` is the model's own. -/
structure State where
  /-- The data register: block buffer, running Block, result (R21). -/
  BLK : Block
  /-- Characters pushed into the block buffer, saturating at 28 (R22). -/
  BLEN : BitVec 5
  /-- An invalid character stands in the block buffer (R23). -/
  BBAD : Bool
  /-- The key store (R50). -/
  KEY : Memory
  /-- Key cells written since the last clear, saturating at 2520 (R24). -/
  KLEN : BitVec 12
  /-- An invalid character was pushed into the key (R25). -/
  KBAD : Bool
  /-- The controller state (R27). -/
  ST : Ctl
  /-- The cause of the ERROR state (R30). -/
  ERR : ErrCode
  /-- The direction of the running or last operation (R29). -/
  DIR : Direction
  /-- The round index of the next round (R28). -/
  RND : BitVec 6
  /-- DESIGN CHOICE (notes/assumptions/1.md): what the host will present at the coming steps, first the next one. It
  is an input (R32, R33), not state of the engine; a list that has run out stands for the idle word NOP with
  `rst` = 0. -/
  inputs : List HostInput
deriving DecidableEq, Repr

/-- The ways a step stops with a fault. Neither happens in a state reachable from reset (R36(d)). -/
inductive Fault where
  /-- Raised by a key read that reaches past cell 2519, where `MemRead` "is not defined" (R55). Safe: the machine
  forms no such address. -/
  | keyRange (addr n : Nat)
  /-- Raised by a read of a key cell nothing has written, whose content is unspecified (R35, U2). Safe: the model
  stops where the hardware would read some bit. -/
  | keyUnwritten (addr : Nat)
deriving DecidableEq, Repr

/-- The ways a step is refused. -/
inductive Refusal where
  /-- An instruction without a meaning. Raised by no arm: every instruction has its meaning. Safe. -/
  | notModelled (mnemonic : String)
  /-- Raised by a step in BUSY whose `RND` is 56 .. 63, values that R28 says never occur. Safe: nothing is run. -/
  | noControlState (rnd : BitVec 6)
deriving DecidableEq, Repr

/-- The machine right after a reset step (R35, R221): every register at the value of R35's table; no key cell written
(notes/assumptions/2.md); nothing presented by the host yet. -/
def State.reset : State where
  BLK := ZERO27
  BLEN := 0#5
  BBAD := false
  KEY := []
  KLEN := 0#12
  KBAD := false
  ST := .idle
  ERR := .none
  DIR := .encrypt
  RND := 0#6
  inputs := []

end Sys2Proof.Machine
end

