-- ==== Sys2Proof/Machine/Flags.lean ====
section
/-! DEFINITION. The validation flags `BBAD` and `KBAD` (10_state.md R23, R25) and the two predicates that read them
(43_host_commands.md R170). There is no other flag (R26). -/
namespace Sys2Proof.Machine

/-- A sticky flag after a character in a counted position: set by an invalid one, never cleared (R23, R25). -/
def stickyBad (bad : Bool) (ch : Character) : Bool := bad || (charBit ch).isNone

/-- `BlockValid(s)` (R170). -/
def blockValid (s : State) : Bool := s.BLEN == 27#5 && !s.BBAD

/-- `KeyValid(s)` (R170). -/
def keyValid (s : State) : Bool := s.KLEN == 2520#12 && !s.KBAD

end Sys2Proof.Machine
end

