-- ==== Sys2Proof/Machine/Ops.lean ====
section
/-! DEFINITION. The named operations over the key store and the registers, which the meanings are written with. Taking
an exception (`raise`) and returning from one (`returnFromError`) stand here. -/
namespace Sys2Proof.Machine

/-! ### The key store (20_memory.md) -/

/-- The content of one cell, if it has been written (R55, R37). -/
def Memory.read : Memory → Nat → Option Bit
  | [], _ => none
  | (a, b) :: cs, addr => if a = addr then some b else Memory.read cs addr

/-- `MemWrite(addr, 1, b)`: one cell set, nothing else changed (R57). -/
def Memory.write : Memory → Nat → Bit → Memory
  | [], addr, b => [(addr, b)]
  | (a, x) :: cs, addr, b =>
    if addr < a then (addr, b) :: (a, x) :: cs
    else if addr = a then (addr, b) :: cs
    else (a, x) :: Memory.write cs addr b

/-- The canonical form from address `lo` up: addresses strictly rising and inside the store. -/
def Memory.wfFrom : Nat → Memory → Bool
  | _, [] => true
  | lo, (a, _) :: cs => decide (lo ≤ a) && decide (a < Config.KEY_CELLS) && Memory.wfFrom (a + 1) cs

/-- The canonical form: addresses strictly rising, each below 2520 (R50). An unlisted cell has no value, so no entry
can equal what an unlisted address reads as. -/
def Memory.wf (m : Memory) : Bool := Memory.wfFrom 0 m

/-- The n cells from `addr` up, first cell at position 0, or the first one without a value. -/
def readCells (m : Memory) (addr : Nat) : (n : Nat) → Except Fault (BitSeq n)
  | 0 => .ok 0#0
  | n + 1 =>
    match readCells m addr n with
    | .error f => .error f
    | .ok v =>
      match Memory.read m (addr + n) with
      | some b => .ok (v.concat b)
      | none => .error (.keyUnwritten (addr + n))

/-- `MemRead(addr, n)`, defined for `addr + n ≤ 2520` (R55). -/
def memRead (m : Memory) (addr n : Nat) : Except Fault (BitSeq n) :=
  if addr + n ≤ Config.KEY_CELLS then readCells m addr n else .error (.keyRange addr n)

/-- An operation on the state with n key cells as its operand (R55). -/
def withKeyBits (s : State) (addr n : Nat) (f : BitSeq n → State) : Host.Outcome State Fault Refusal :=
  match memRead s.KEY addr n with
  | .ok k => .next (f k)
  | .error e => .fault e

/-- First address of `BigKey_r` (R54, R56). -/
def bigKeyAddr (r : Nat) : Nat := 45 * r

/-- First address of `SmallKey_r` (R54, R56). -/
def smallKeyAddr (r : Nat) : Nat := 45 * r + 27

/-- An operation on the state with the round key pair of round r as its operands (R56, R146). -/
def withRoundKey (s : State) (r : Nat) (f : BigKeyBits → SmallKeyBits → State) : Host.Outcome State Fault Refusal :=
  match memRead s.KEY (bigKeyAddr r) 27 with
  | .error e => .fault e
  | .ok K27 => withKeyBits s (smallKeyAddr r) 18 fun K18 => f K27 K18

/-! ### The registers -/

/-- A command accepted in IDLE only: elsewhere it is dropped and changes nothing (43_host_commands.md R160). -/
def whenIdle (s : State) (f : State → State) : State := if s.ST = .idle then f s else s

/-- The block buffer emptied: `BLK <- ZERO27; BLEN <- 0; BBAD <- 0` (R162, R168). -/
def clearBlock (s : State) : State := { s with BLK := ZERO27, BLEN := 0#5, BBAD := false }

/-- The key emptied: `KLEN <- 0; KBAD <- 0`, the cells left as they are (R165). -/
def clearKey (s : State) : State := { s with KLEN := 0#12, KBAD := false }

/-- One character appended to the block buffer (R163): stored and validated at a position below 27, counted once more
as "too long" at 27, ignored after that. -/
def appendBlock (ch : Character) (s : State) : State :=
  if s.BLEN.toNat < 27 then
    { s with
      BLK := setPos s.BLK s.BLEN.toNat (storedBit ch)
      BBAD := stickyBad s.BBAD ch
      BLEN := s.BLEN + 1#5 }
  else if s.BLEN = 27#5 then { s with BLEN := 28#5 }
  else s

/-- One character appended to the key (R164): stored and validated below 2520, ignored after that. -/
def appendKey (ch : Character) (s : State) : State :=
  if s.KLEN.toNat < Config.KEY_CELLS then
    { s with
      KEY := Memory.write s.KEY s.KLEN.toNat (storedBit ch)
      KBAD := stickyBad s.KBAD ch
      KLEN := s.KLEN + 1#12 }
  else s

/-! ### Exceptions (60_exceptions.md) -/

/-- TAKING AN EXCEPTION: `raise E` is `ST <- ERROR; ERR <- code(E)`, and nothing else; nothing is saved and control
goes nowhere (R194). -/
def raise (e : ErrCode) (s : State) : State := { s with ST := .error, ERR := e }

/-- RETURNING FROM ONE: `ST <- IDLE; ERR <- NONE`, all other state kept (R168, R197). -/
def returnFromError (s : State) : State := { s with ST := .idle, ERR := .none }

/-! ### Starting and ending an operation -/

/-- The round an operation starts with (R166, R167). -/
def firstRound : Direction → BitVec 6
  | .encrypt => 0#6
  | .decrypt => 55#6

/-- An accepted, valid start: `DIR`, `RND` and `ST` set, no round executed (R145, R166, R167). -/
def start (d : Direction) (s : State) : State := { s with DIR := d, RND := firstRound d, ST := .busy }

/-- The validation of a start and its outcome, the block condition tested first (R166, R167, R196). -/
def startOrRaise (d : Direction) (s : State) : State :=
  if !blockValid s then raise .errBlock s
  else if !keyValid s then raise .errKey s
  else start d s

/-- The result discarded and the block buffer emptied (R168 from DONE). -/
def releaseResult (s : State) : State := { s with ST := .idle, BLK := ZERO27, BLEN := 0#5, BBAD := false }

/-- What an encryption round step does to `ST` or `RND`, never to both (R146, R147). -/
def advanceEnc (r : BitVec 6) (s : State) : State :=
  if r = 55#6 then { s with ST := .done } else { s with RND := r + 1#6 }

/-- What a decryption round step does to `ST` or `RND`, never to both (R146, R147). -/
def advanceDec (r : BitVec 6) (s : State) : State :=
  if r = 0#6 then { s with ST := .done } else { s with RND := r - 1#6 }

/-- `ResetState(s)`: the values of R35, the `KEY` cells those of s (70_reset_and_hazards.md R221). What the host will
present next is not the engine's to change. -/
def resetState (s : State) : State := { State.reset with KEY := s.KEY, inputs := s.inputs }

end Sys2Proof.Machine
end

