-- ==== Sys2Proof/Machine/Commands.lean ====
section
/-! DEFINITION. The meanings of the host commands and the reserved words (43_host_commands.md R160 to R169). In BUSY no
step calls them (R146): there, as wherever a command is not accepted, the command is dropped. -/
namespace Sys2Proof.Machine

/-- `NOP`: nothing, in every state (R161). -/
def execNop (s : State) : Host.Outcome State Fault Refusal := .next s

/-- `CLRB` (R162). -/
def execClrb (s : State) : Host.Outcome State Fault Refusal := .next (whenIdle s clearBlock)

/-- `CLRK` (R165). -/
def execClrk (s : State) : Host.Outcome State Fault Refusal := .next (whenIdle s clearKey)

/-- `PUSHB ch` (R163). -/
def execPushb (ch : Character) (s : State) : Host.Outcome State Fault Refusal := .next (whenIdle s (appendBlock ch))

/-- `PUSHK ch` (R164). -/
def execPushk (ch : Character) (s : State) : Host.Outcome State Fault Refusal := .next (whenIdle s (appendKey ch))

/-- `ENC` (R166). -/
def execEnc (s : State) : Host.Outcome State Fault Refusal := .next (whenIdle s (startOrRaise .encrypt))

/-- `DEC` (R167). -/
def execDec (s : State) : Host.Outcome State Fault Refusal := .next (whenIdle s (startOrRaise .decrypt))

/-- `ACK` (R168): from DONE the result is discarded, from ERROR the error is acknowledged, in IDLE nothing, in BUSY
dropped. -/
def execAck (s : State) : Host.Outcome State Fault Refusal :=
  match s.ST with
  | .done => .next (releaseResult s)
  | .error => .next (returnFromError s)
  | .idle => .next s
  | .busy => .next s

/-- A reserved word with `op` = 0 (R169). -/
def execReserved0 (_ch : Character) (s : State) : Host.Outcome State Fault Refusal := .next (whenIdle s (raise .errCmd))

/-- A reserved word with `op` = 1 (R169). -/
def execReserved1 (_ch : Character) (s : State) : Host.Outcome State Fault Refusal := .next (whenIdle s (raise .errCmd))

/-- A reserved word with `op` = 2 (R169). -/
def execReserved2 (_ch : Character) (s : State) : Host.Outcome State Fault Refusal := .next (whenIdle s (raise .errCmd))

/-- A reserved word with `op` = 5 (R169). -/
def execReserved5 (_ch : Character) (s : State) : Host.Outcome State Fault Refusal := .next (whenIdle s (raise .errCmd))

/-- A reserved word with `op` = 6 (R169). -/
def execReserved6 (_ch : Character) (s : State) : Host.Outcome State Fault Refusal := .next (whenIdle s (raise .errCmd))

/-- A reserved word with `op` = 7 (R169). -/
def execReserved7 (_ch : Character) (s : State) : Host.Outcome State Fault Refusal := .next (whenIdle s (raise .errCmd))

/-- A reserved word with `op` = 8 .. 15 (R169). -/
def execReservedHi (_op : BitVec 4) (_ch : Character) (s : State) : Host.Outcome State Fault Refusal :=
  .next (whenIdle s (raise .errCmd))

end Sys2Proof.Machine
end

