-- ==== Sys2Proof/Machine/Datapath.lean ====
section
/-! DEFINITION. The function level: the six datapath operations (40_datapath.md), the round functions (41_round.md) and
the 56-round drivers with the key slices (20_memory.md R56, 42_driver.md section 1). All are pure and total (R8, R100). -/
namespace Sys2Proof.Machine

/-- `MIX(A, K)`: exclusive-or position by position (R101). -/
def mix (A : Block) (K : BigKeyBits) : Block := ofPos 27 fun p => pos A p ^^ pos K p

/-- `π(i) = (3×i) mod 26` for i ≤ 25, and `π(26) = 26` (R103). -/
def perm (i : Nat) : Nat := if i ≤ 25 then 3 * i % Config.PERM_MOD else i

/-- `π⁻¹(j) = (9×j) mod 26` for j ≤ 25, and `π⁻¹(26) = 26` (R105). -/
def permInv (j : Nat) : Nat := if j ≤ 25 then 9 * j % Config.PERM_MOD else j

/-- `FP(A)`: the bit at position i moves to π(i), written as R103's equivalent `R{j} = A{π⁻¹(j)}`. -/
def fp (A : Block) : Block := ofPos 27 fun j => pos A (permInv j)

/-- `FPI(A)`: `R{i} = A{π(i)}` (R105). -/
def fpi (A : Block) : Block := ofPos 27 fun i => pos A (perm i)

/-- `KP(A, K18)`: each group reordered as its selector says (R108). -/
def kp (A : Block) (K18 : SmallKeyBits) : Block := ofGroups fun g => shuffle (selectorAt K18 g) (grp A g)

/-- The forward table `SBOX` (R111). -/
def sboxTable : List Nat := [0, 1, 3, 6, 7, 4, 5, 2]

/-- The inverse table `SBOXI` (R112). -/
def sboxInvTable : List Nat := [0, 1, 7, 2, 5, 6, 3, 4]

/-- A table applied to a group read as a number (R111, R114). -/
def substitute (table : List Nat) (c : Group) : Group := groupOfVal (table.getD (gval c) 0)

/-- `SB(A)`, the forward substitution (R111). -/
def sb (A : Block) : Block := ofGroups fun g => substitute sboxTable (grp A g)

/-- `SBI(A)`, the inverse substitution (R112). -/
def sbi (A : Block) : Block := ofGroups fun g => substitute sboxInvTable (grp A g)

/-- `ENCR(B, K27, K18) = SB(KP(FP(MIX(B, K27)), K18))` (R130). -/
def encr (B : Block) (K27 : BigKeyBits) (K18 : SmallKeyBits) : Block := sb (kp (fp (mix B K27)) K18)

/-- `DECR(C, K27, K18) = MIX(FPI(KP(SBI(C), K18)), K27)` (R131). -/
def decr (C : Block) (K27 : BigKeyBits) (K18 : SmallKeyBits) : Block := mix (fpi (kp (sbi C) K18)) K27

/-- `BigKey(K, i) = K{45i .. 45i+27}` (R56). -/
def bigKey {n : Nat} (K : BitSeq n) (i : Nat) : BigKeyBits := slice K (45 * i) 27

/-- `SmallKey(K, i) = K{45i+27 .. 45i+45}` (R56). -/
def smallKey {n : Nat} (K : BitSeq n) (i : Nat) : SmallKeyBits := slice K (45 * i + 27) 18

/-- The Block after the first k encryption rounds, of index 0, 1, .., k-1 (R141). -/
def encRounds {n : Nat} (B : Block) (K : BitSeq n) : Nat → Block
  | 0 => B
  | k + 1 => encr (encRounds B K k) (bigKey K k) (smallKey K k)

/-- The Block after the first k decryption rounds, of index 55, 54, .., 56-k (R142). -/
def decRounds {n : Nat} (C : Block) (K : BitSeq n) : Nat → Block
  | 0 => C
  | k + 1 => decr (decRounds C K k) (bigKey K (55 - k)) (smallKey K (55 - k))

/-- `ENCRYPT(B, K)`: 56 rounds, ascending (R141). Defined by the spec for keys of at least 2520 bits (R140). -/
def encrypt {n : Nat} (B : Block) (K : BitSeq n) : Block := encRounds B K Config.ROUNDS

/-- `DECRYPT(C, K)`: 56 rounds, descending (R142). Defined by the spec for keys of at least 2520 bits (R140). -/
def decrypt {n : Nat} (C : Block) (K : BitSeq n) : Block := decRounds C K Config.ROUNDS

end Sys2Proof.Machine
end

