-- ==== Sys2Proof/Machine/Wired.lean ====
section
/-! DEFINITION. The meanings of the function-level rows MIX, FP, FPI, KP, SB, SBI, ENCR, DECR, ENCRYPT, DECRYPT
(30_encoding.md R81). DESIGN CHOICE (notes/assumptions/4.md): each takes its Block from `BLK` and its key from the key
store, as the round step does (R146), and leaves the function's value in `BLK`; it changes nothing else (R26, R100). -/
namespace Sys2Proof.Machine

/-- `BLK` replaced. -/
def setBlk (B : Block) (s : State) : State := { s with BLK := B }

/-- `MIX` with BigKey r (R101). -/
def execMix (_d : Direction) (r : BitVec 6) (s : State) : Host.Outcome State Fault Refusal :=
  withKeyBits s (bigKeyAddr r.toNat) 27 fun K27 => setBlk (mix s.BLK K27) s

/-- `FP` (R103). -/
def execFp (_r : BitVec 6) (s : State) : Host.Outcome State Fault Refusal := .next (setBlk (fp s.BLK) s)

/-- `FPI` (R105). -/
def execFpi (_r : BitVec 6) (s : State) : Host.Outcome State Fault Refusal := .next (setBlk (fpi s.BLK) s)

/-- `KP` with SmallKey r (R108). -/
def execKp (_d : Direction) (r : BitVec 6) (s : State) : Host.Outcome State Fault Refusal :=
  withKeyBits s (smallKeyAddr r.toNat) 18 fun K18 => setBlk (kp s.BLK K18) s

/-- `SB` (R111). -/
def execSb (_r : BitVec 6) (s : State) : Host.Outcome State Fault Refusal := .next (setBlk (sb s.BLK) s)

/-- `SBI` (R112). -/
def execSbi (_r : BitVec 6) (s : State) : Host.Outcome State Fault Refusal := .next (setBlk (sbi s.BLK) s)

/-- `ENCR` with the round key pair r (R130). -/
def execEncr (r : BitVec 6) (s : State) : Host.Outcome State Fault Refusal :=
  withRoundKey s r.toNat fun K27 K18 => setBlk (encr s.BLK K27 K18) s

/-- `DECR` with the round key pair r (R131). -/
def execDecr (r : BitVec 6) (s : State) : Host.Outcome State Fault Refusal :=
  withRoundKey s r.toNat fun K27 K18 => setBlk (decr s.BLK K27 K18) s

/-- `ENCRYPT` with the whole key (R141). -/
def execEncrypt (s : State) : Host.Outcome State Fault Refusal :=
  withKeyBits s 0 Config.KEY_CELLS fun K => setBlk (encrypt s.BLK K) s

/-- `DECRYPT` with the whole key (R142). -/
def execDecrypt (s : State) : Host.Outcome State Fault Refusal :=
  withKeyBits s 0 Config.KEY_CELLS fun K => setBlk (decrypt s.BLK K) s

end Sys2Proof.Machine
end

