-- ==== Sys2Proof/Machine/Controller.lean ====
section
/-! DEFINITION. The meanings of the two round steps (42_driver.md R146): what a step in BUSY runs, with r the value of
`RND` the control state shows. -/
namespace Sys2Proof.Machine

/-- `RoundStep` with `DIR = 0` and `RND = r` (R146). -/
def execRoundstepEnc (r : BitVec 6) (s : State) : Host.Outcome State Fault Refusal :=
  withRoundKey s r.toNat fun K27 K18 => advanceEnc r (setBlk (encr s.BLK K27 K18) s)

/-- `RoundStep` with `DIR = 1` and `RND = r` (R146). -/
def execRoundstepDec (r : BitVec 6) (s : State) : Host.Outcome State Fault Refusal :=
  withRoundKey s r.toNat fun K27 K18 => advanceDec r (setBlk (decr s.BLK K27 K18) s)

end Sys2Proof.Machine
end

