-- ==== Sys2Proof/Machine/Selectors.lean ====
section
/-! DEFINITION. The meanings of the four selector rows (30_encoding.md R87, 40_datapath.md R108): group g of `BLK`
receives the selector's output ordering and nothing else changes. DESIGN CHOICE (notes/assumptions/5.md): the machine
applies a selector only inside `KP`, to a wire; here one lane of it acts on `BLK`. -/
namespace Sys2Proof.Machine

/-- Group g of `BLK` reordered (R108). -/
def reorderGroup (sel : Selector) (g : BitVec 4) (s : State) : State :=
  { s with BLK := setGroup s.BLK g.toNat (shuffle sel (grp s.BLK g.toNat)) }

/-- `ID`: (c0, c1, c2) (R87). -/
def execSelId (g : BitVec 4) (s : State) : Host.Outcome State Fault Refusal := .next (reorderGroup .ident g s)

/-- `SWAP01`: (c1, c0, c2) (R87). -/
def execSelSwap01 (g : BitVec 4) (s : State) : Host.Outcome State Fault Refusal := .next (reorderGroup .swap01 g s)

/-- `SWAP12`: (c0, c2, c1) (R87). -/
def execSelSwap12 (g : BitVec 4) (s : State) : Host.Outcome State Fault Refusal := .next (reorderGroup .swap12 g s)

/-- `REV`: (c2, c1, c0) (R87). -/
def execSelRev (g : BitVec 4) (s : State) : Host.Outcome State Fault Refusal := .next (reorderGroup .rev g s)

end Sys2Proof.Machine
end

