-- ==== Sys2Proof/Machine/Dispatch.lean ====
section
/-! DEFINITION. The dispatch: one arm per instruction, each one call of its meaning. -/
namespace Sys2Proof.Machine

def exec (i : Instr) (s : State) : Host.Outcome State Fault Refusal :=
  match i with
  -- format CMD
  | .nop => Sys2Proof.Machine.execNop s
  | .clrb => Sys2Proof.Machine.execClrb s
  | .clrk => Sys2Proof.Machine.execClrk s
  | .pushb ch => Sys2Proof.Machine.execPushb ch s
  | .pushk ch => Sys2Proof.Machine.execPushk ch s
  | .enc => Sys2Proof.Machine.execEnc s
  | .dec => Sys2Proof.Machine.execDec s
  | .ack => Sys2Proof.Machine.execAck s
  | .reserved0 ch => Sys2Proof.Machine.execReserved0 ch s
  | .reserved1 ch => Sys2Proof.Machine.execReserved1 ch s
  | .reserved2 ch => Sys2Proof.Machine.execReserved2 ch s
  | .reserved5 ch => Sys2Proof.Machine.execReserved5 ch s
  | .reserved6 ch => Sys2Proof.Machine.execReserved6 ch s
  | .reserved7 ch => Sys2Proof.Machine.execReserved7 ch s
  | .reservedHi op ch => Sys2Proof.Machine.execReservedHi op ch s
  -- format KSEL
  | .selId g => Sys2Proof.Machine.execSelId g s
  | .selSwap01 g => Sys2Proof.Machine.execSelSwap01 g s
  | .selSwap12 g => Sys2Proof.Machine.execSelSwap12 g s
  | .selRev g => Sys2Proof.Machine.execSelRev g s
  -- format CTRL
  | .roundstepEnc r => Sys2Proof.Machine.execRoundstepEnc r s
  | .roundstepDec r => Sys2Proof.Machine.execRoundstepDec r s
  | .mix d r => Sys2Proof.Machine.execMix d r s
  | .fp r => Sys2Proof.Machine.execFp r s
  | .fpi r => Sys2Proof.Machine.execFpi r s
  | .kp d r => Sys2Proof.Machine.execKp d r s
  | .sb r => Sys2Proof.Machine.execSb r s
  | .sbi r => Sys2Proof.Machine.execSbi r s
  | .encr r => Sys2Proof.Machine.execEncr r s
  | .decr r => Sys2Proof.Machine.execDecr r s
  | .encrypt => Sys2Proof.Machine.execEncrypt s
  | .decrypt => Sys2Proof.Machine.execDecrypt s

end Sys2Proof.Machine
end

