-- ==== Sys2Proof/WellFormed.lean ====
section
/-! DEFINITION. Which operand values the encodings admit. -/
namespace Sys2Proof

/-- The reserved rows of an operand-less opcode match only words with `ch` ≠ 0x00 (30_encoding.md R82, the table's
note: the command's own row takes priority). -/
def reservedChar (ch : Character) : Bool := ch != 0x00#8

/-- Row RESERVED_HI: `op` = 8 .. 15 (R82). -/
def reservedOp (op : BitVec 4) : Bool := decide (8 ≤ op.toNat)

/-- Group g of a Block: 0 ≤ g ≤ 8 (00_scope.md R9). -/
def groupOk (g : BitVec 4) : Bool := decide (g.toNat < 9)

/-- Round index r: 0 ≤ r ≤ 55 (10_state.md R28; the note of the table's CTRL rows). -/
def roundOk (r : BitVec 6) : Bool := decide (r.toNat < 56)

/-- An instruction some word of the spec's encodings spells. -/
def Instr.wf : Instr → Bool
  | .nop => true
  | .clrb => true
  | .clrk => true
  | .pushb _ => true
  | .pushk _ => true
  | .enc => true
  | .dec => true
  | .ack => true
  | .reserved0 ch => reservedChar ch
  | .reserved1 ch => reservedChar ch
  | .reserved2 ch => reservedChar ch
  | .reserved5 ch => reservedChar ch
  | .reserved6 ch => reservedChar ch
  | .reserved7 ch => reservedChar ch
  | .reservedHi op _ => reservedOp op
  | .selId g => groupOk g
  | .selSwap01 g => groupOk g
  | .selSwap12 g => groupOk g
  | .selRev g => groupOk g
  | .roundstepEnc r => roundOk r
  | .roundstepDec r => roundOk r
  | .mix _ r => roundOk r
  | .fp r => roundOk r
  | .fpi r => roundOk r
  | .kp _ r => roundOk r
  | .sb r => roundOk r
  | .sbi r => roundOk r
  | .encr r => roundOk r
  | .decr r => roundOk r
  | .encrypt => true
  | .decrypt => true

end Sys2Proof
end

