-- ==== Sys2Proof/Decode.lean ====
section
/-! DEFINITION. The encodings of 30_encoding.md: the decoder, total on every word of the three formats, and after it
the encoder. -/
namespace Sys2Proof

/-- A word of one of the opcode table's three formats. A selector has no field for its group: it stands at SmallKey
positions 2g and 2g+1 (R87), so the group is part of where the word is found. -/
inductive Code where
  /-- Format CMD: a word of the `cmd` port (R80). -/
  | cmd (w : CmdWord)
  /-- Format KSEL: the pair (bit 2g, bit 2g+1), first bit the more significant, and the group g it stands at (R87). -/
  | ksel (g : BitVec 4) (v : BitVec 2)
  /-- Format CTRL: the control state `ST ++ DIR ++ RND`, first character the most significant bit (R81). -/
  | ctrl (w : CtrlWord)
deriving DecidableEq, Repr

/-- Why a word spells no instruction. No word of format CMD is refused (R85). -/
inductive DecodeError where
  /-- A selector at a group above 8: a Block has nine groups (R9). Safe: the spec has no such word. -/
  | noSuchGroup (g : BitVec 4)
  /-- A control word whose `ST` is not BUSY: no wired operation acts then (R81, R146). Safe: nothing is run. -/
  | notBusy (w : CtrlWord)
  /-- A control word whose `RND` is 56 .. 63, values `RND` never takes (R28). Safe: nothing is run. -/
  | noSuchRound (r : BitVec 6)
deriving DecidableEq, Repr

/-- `cmd[11:8]` (R80). -/
def cmdOp (w : CmdWord) : BitVec 4 := w.extractLsb' 8 4

/-- `cmd[7:0]` (R80). -/
def cmdCh (w : CmdWord) : Character := w.extractLsb' 0 8

/-- `Decode(cmd)` of R84, with the RESERVED class split into the rows of the opcode table. -/
def decodeCmd (w : CmdWord) : Instr :=
  let op := cmdOp w
  let ch := cmdCh w
  if op = 0x3#4 then .pushb ch
  else if op = 0x4#4 then .pushk ch
  else if ch ≠ 0x00#8 then
    if op = 0x0#4 then .reserved0 ch
    else if op = 0x1#4 then .reserved1 ch
    else if op = 0x2#4 then .reserved2 ch
    else if op = 0x5#4 then .reserved5 ch
    else if op = 0x6#4 then .reserved6 ch
    else if op = 0x7#4 then .reserved7 ch
    else .reservedHi op ch
  else if op = 0x0#4 then .nop
  else if op = 0x1#4 then .clrb
  else if op = 0x2#4 then .clrk
  else if op = 0x5#4 then .enc
  else if op = 0x6#4 then .dec
  else if op = 0x7#4 then .ack
  else .reservedHi op ch

/-- The selector table of R87, at group g. -/
def decodeKsel (g : BitVec 4) (v : BitVec 2) : Instr :=
  if v = 0b00#2 then .selId g
  else if v = 0b01#2 then .selSwap01 g
  else if v = 0b10#2 then .selSwap12 g
  else .selRev g

/-- Characters 0 and 1 of a CTRL row: `ST`. -/
def ctrlSt (w : CtrlWord) : BitVec 2 := w.extractLsb' 7 2

/-- Character 2 of a CTRL row: `DIR`. -/
def ctrlDir (w : CtrlWord) : Direction := if w.getLsbD 6 then .decrypt else .encrypt

/-- Characters 3 to 8 of a CTRL row: `RND`. -/
def ctrlRnd (w : CtrlWord) : BitVec 6 := w.extractLsb' 0 6

/-- The round step a control word selects: `ST` = BUSY (01), direction d, round r (R81, R146). -/
def decodeCtrl (w : CtrlWord) : Except DecodeError Instr :=
  if ctrlSt w = 0b01#2 then
    if roundOk (ctrlRnd w) then
      match ctrlDir w with
      | .encrypt => .ok (.roundstepEnc (ctrlRnd w))
      | .decrypt => .ok (.roundstepDec (ctrlRnd w))
    else .error (.noSuchRound (ctrlRnd w))
  else .error (.notBusy w)

/-- The instruction a word spells: for a control word, the round step, which is what a step in BUSY runs (R146). -/
def decode : Code → Except DecodeError Instr
  | .cmd w => .ok (decodeCmd w)
  | .ksel g v => if groupOk g then .ok (decodeKsel g v) else .error (.noSuchGroup g)
  | .ctrl w => decodeCtrl w

/-- EVERY row of the opcode table that a word matches, the decoded instruction first. One control word matches the
round step, the stages and the round function of its direction, and the operation whose rounds it is one of (R81). -/
def rowsOf (c : Code) : List Instr :=
  match decode c with
  | .error _ => []
  | .ok (.roundstepEnc r) =>
    [.roundstepEnc r, .mix .encrypt r, .fp r, .kp .encrypt r, .sb r, .encr r, .encrypt]
  | .ok (.roundstepDec r) =>
    [.roundstepDec r, .mix .decrypt r, .fpi r, .kp .decrypt r, .sbi r, .decr r, .decrypt]
  | .ok i => [i]

/-! ### The encoder -/

/-- The command word `op`, `ch` (R80). -/
def cmdWord (op : BitVec 4) (ch : Character) : CmdWord := op ++ ch

/-- `DIR` as one bit (R29). -/
def Direction.code : Direction → BitVec 1
  | .encrypt => 0#1
  | .decrypt => 1#1

/-- The control word of round r in direction d while BUSY (R81). -/
def busyWord (d : Direction) (r : BitVec 6) : CtrlWord := 0b01#2 ++ d.code ++ r

/-- The control words of all 56 rounds in the order an operation runs them (R141, R142). -/
def operationWords : Direction → List Code
  | .encrypt => (List.range 56).map fun k => .ctrl (busyWord .encrypt (BitVec.ofNat 6 k))
  | .decrypt => (List.range 56).map fun k => .ctrl (busyWord .decrypt (BitVec.ofNat 6 (55 - k)))

/-- The words of a well-formed instruction: one, but for ENCRYPT and DECRYPT, which are 56 round steps. -/
def encode : Instr → List Code
  | .nop => [.cmd (cmdWord 0x0#4 0x00#8)]
  | .clrb => [.cmd (cmdWord 0x1#4 0x00#8)]
  | .clrk => [.cmd (cmdWord 0x2#4 0x00#8)]
  | .pushb ch => [.cmd (cmdWord 0x3#4 ch)]
  | .pushk ch => [.cmd (cmdWord 0x4#4 ch)]
  | .enc => [.cmd (cmdWord 0x5#4 0x00#8)]
  | .dec => [.cmd (cmdWord 0x6#4 0x00#8)]
  | .ack => [.cmd (cmdWord 0x7#4 0x00#8)]
  | .reserved0 ch => [.cmd (cmdWord 0x0#4 ch)]
  | .reserved1 ch => [.cmd (cmdWord 0x1#4 ch)]
  | .reserved2 ch => [.cmd (cmdWord 0x2#4 ch)]
  | .reserved5 ch => [.cmd (cmdWord 0x5#4 ch)]
  | .reserved6 ch => [.cmd (cmdWord 0x6#4 ch)]
  | .reserved7 ch => [.cmd (cmdWord 0x7#4 ch)]
  | .reservedHi op ch => [.cmd (cmdWord op ch)]
  | .selId g => [.ksel g 0b00#2]
  | .selSwap01 g => [.ksel g 0b01#2]
  | .selSwap12 g => [.ksel g 0b10#2]
  | .selRev g => [.ksel g 0b11#2]
  | .roundstepEnc r => [.ctrl (busyWord .encrypt r)]
  | .roundstepDec r => [.ctrl (busyWord .decrypt r)]
  | .mix d r => [.ctrl (busyWord d r)]
  | .fp r => [.ctrl (busyWord .encrypt r)]
  | .fpi r => [.ctrl (busyWord .decrypt r)]
  | .kp d r => [.ctrl (busyWord d r)]
  | .sb r => [.ctrl (busyWord .encrypt r)]
  | .sbi r => [.ctrl (busyWord .decrypt r)]
  | .encr r => [.ctrl (busyWord .encrypt r)]
  | .decr r => [.ctrl (busyWord .decrypt r)]
  | .encrypt => operationWords .encrypt
  | .decrypt => operationWords .decrypt

/-- The instruction the decoder reads from a command word given as a number. Only format CMD is a word the machine is
given (R81), and the `cmd` port has 12 wires (R32): a number that does not fit them is no word. `nbits` says nothing
more, since every bit above it is 0. -/
def decodeTableWord (_nbits w : Nat) : Option Instr :=
  if w < 4096 then some (decodeCmd (BitVec.ofNat 12 w)) else none

end Sys2Proof
end

