-- ==== Sys2Proof/Machine/Ports.lean ====
section
/-! DEFINITION. The output ports (10_state.md R31): functions of the state alone. -/
namespace Sys2Proof.Machine

/-- The encoding of `ST` (R27). -/
def Ctl.code : Ctl → BitVec 2
  | .idle => 0#2
  | .busy => 1#2
  | .done => 2#2
  | .error => 3#2

/-- The encoding of `ERR` (R30, R190). -/
def ErrCode.code : ErrCode → BitVec 2
  | .none => 0#2
  | .errBlock => 1#2
  | .errKey => 2#2
  | .errCmd => 3#2

/-- The nine output ports (R31). -/
structure Outputs where
  st : BitVec 2
  err : BitVec 2
  ready : Bool
  irq : Bool
  res : BitVec 27
  blen : BitVec 5
  klen : BitVec 12
  bbad : Bool
  kbad : Bool
deriving DecidableEq, Repr

/-- What the host sees between steps (R31): `res` is `val(BLK)` in DONE and 0 elsewhere. -/
def outputs (s : State) : Outputs where
  st := s.ST.code
  err := s.ERR.code
  ready := s.ST == .idle
  irq := s.ST == .done || s.ST == .error
  res := if s.ST = .done then s.BLK else 0#27
  blen := s.BLEN
  klen := s.KLEN
  bbad := s.BBAD
  kbad := s.KBAD

/-- `resch(p) = 0x30 + BLK{p}` for p = 0 .. 26, "defined only when `ST = DONE`" (R31, R172). -/
def resch (s : State) (p : Nat) : Option Character :=
  if s.ST = .done ∧ p < 27 then some (0x30#8 + BitVec.ofNat 8 (pos s.BLK p).toNat) else none

end Sys2Proof.Machine
end

