-- ==== Sys2Proof/Machine/Fetch.lean ====
section
/-! DEFINITION. What a step reads before it runs an instruction: the host's inputs (10_state.md R32) and, in BUSY, the
control state (30_encoding.md R81). -/
namespace Sys2Proof.Machine

/-- What the host presents when it has nothing to say: NOP, no reset (R32). -/
def idleInput : HostInput := ⟨false, 0x000#12⟩

/-- The inputs sampled by the next step (R32). -/
def sampled (s : State) : HostInput := s.inputs.headD idleInput

/-- The state with the sampled inputs consumed. -/
def consume (s : State) : State := { s with inputs := s.inputs.tail }

/-- The control state `ST`, `DIR`, `RND` as the 9 bits of format CTRL (R81). -/
def ctrlWord (s : State) : CtrlWord := s.ST.code ++ s.DIR.code ++ s.RND

/-- The word that selects what a step with `rst = 0` does: the control state in BUSY, where the command word "is not
even looked at" (R160), and the command word elsewhere (R150). -/
def fetch (s : State) : Code := if s.ST = .busy then .ctrl (ctrlWord s) else .cmd (sampled s).cmd

/-- The state with a word presented first at the `cmd` port, in place of what the host was to present next. -/
def presentWord (s : State) (w : CmdWord) : State := { s with inputs := ⟨false, w⟩ :: s.inputs.tail }

end Sys2Proof.Machine
end

