-- ==== Sys2Proof/Machine/Step.lean ====
section
/-! DEFINITION. One step of the machine: `Step(s, rst, cmd)` (42_driver.md R150), its inputs taken from the state. -/
namespace Sys2Proof.Machine

/-- A reset step when `rst` = 1; otherwise the instruction that the control state (in BUSY) or the command word selects
(R150). The inputs sampled are consumed. -/
def step (s : State) : Host.Outcome State Fault Refusal :=
  if (sampled s).rst then .next (resetState (consume s))
  else
    match decode (fetch s) with
    | .ok i => exec i (consume s)
    | .error _ => .refused (.noControlState s.RND)

/-- The state whose next step samples the command word `w` (notes/assumptions/7.md). -/
def State.withFetchWord (s : State) (_nbits w : Nat) : State := presentWord s (BitVec.ofNat 12 w)

end Sys2Proof.Machine
end

