-- ==== Sys2Proof/Machine/Listing.lean ====
section
/-! DEFINITION. Listings (30_encoding.md R90, R91): the pseudo-commands as what the host presents, one real command per
step, and the text of a command line. Shorthand only; the engine knows nothing of it. -/
namespace Sys2Proof.Machine

/-- A command presented with `rst` = 0. -/
def command (w : CmdWord) : HostInput := ⟨false, w⟩

/-- `PUSHBS "s"`: one PUSHB for each character, left to right (R91). -/
def pushbs (cs : List Character) : List HostInput := cs.map fun c => command (cmdWord 0x3#4 c)

/-- `PUSHKS "s"`: one PUSHK for each character, left to right (R91). -/
def pushks (cs : List Character) : List HostInput := cs.map fun c => command (cmdWord 0x4#4 c)

/-- `LOADB "s"`: CLRB, then `PUSHBS "s"` (R91). -/
def loadb (cs : List Character) : List HostInput := command 0x100#12 :: pushbs cs

/-- `LOADK "s"`: CLRK, then `PUSHKS "s"` (R91). -/
def loadk (cs : List Character) : List HostInput := command 0x200#12 :: pushks cs

/-- `WAIT n`: NOP, n times (R91). -/
def wait (n : Nat) : List HostInput := List.replicate n (command 0x000#12)

/-- `RESET`: one step with `rst` = 1; the command word of that step is ignored (R91). -/
def resetLine : List HostInput := [⟨true, 0x000#12⟩]

/-- The command ENC or DEC. -/
def startCommand : Direction → HostInput
  | .encrypt => command 0x500#12
  | .decrypt => command 0x600#12

/-- One invocation of the source's `encrypt` or `decrypt` up to the reading of the result (R171): the key, the block,
the start, and the 56 steps waited. -/
def invocation (d : Direction) (key block : List Character) : List HostInput :=
  loadk key ++ loadb block ++ startCommand d :: wait 56

/-- A hexadecimal digit, upper case. -/
def hexDigit (v : Nat) : String := String.singleton ("0123456789ABCDEF".toList.getD v '0')

/-- The line of a command (R90): mnemonic first, in upper case, a character operand as a two-digit hexadecimal number.
Reserved words have no mnemonic. -/
def listLine (w : CmdWord) : Option String :=
  match decodeCmd w with
  | .nop => some "NOP"
  | .clrb => some "CLRB"
  | .clrk => some "CLRK"
  | .pushb ch => some ("PUSHB 0x" ++ hexDigit (ch.toNat / 16) ++ hexDigit (ch.toNat % 16))
  | .pushk ch => some ("PUSHK 0x" ++ hexDigit (ch.toNat / 16) ++ hexDigit (ch.toNat % 16))
  | .enc => some "ENC"
  | .dec => some "DEC"
  | .ack => some "ACK"
  | _ => none

/-! ### Reading a listing (R90, R91) -/

/-- The code of a character that fits the 8-bit operand; a string's `0` and `1` are 0x30 and 0x31 (R91). -/
def charCode (c : Char) : Option Character := if c.toNat < 256 then some (BitVec.ofNat 8 c.toNat) else none

/-- A hexadecimal digit. -/
def hexValue (c : Char) : Option Nat :=
  if '0' ≤ c ∧ c ≤ '9' then some (c.toNat - 48)
  else if 'A' ≤ c ∧ c ≤ 'F' then some (c.toNat - 55)
  else if 'a' ≤ c ∧ c ≤ 'f' then some (c.toNat - 87)
  else none

/-- A decimal number, and what follows it. -/
def readNumber (cs : List Char) : Option (Nat × List Char) :=
  match cs.takeWhile Char.isDigit with
  | [] => none
  | ds => some (ds.foldl (fun n d => 10 * n + (d.toNat - 48)) 0, cs.dropWhile Char.isDigit)

/-- A character operand, quoted or as a two-digit hexadecimal number (R90), and what follows it. -/
def readChar : List Char → Option (Character × List Char)
  | '\'' :: c :: '\'' :: r => (charCode c).map fun v => (v, r)
  | '0' :: 'x' :: h :: l :: r => do
    let a ← hexValue h
    let b ← hexValue l
    some (BitVec.ofNat 8 (16 * a + b), r)
  | _ => none

/-- The characters up to the closing quote, and what follows it. -/
def readQuoted : List Char → Option (List Character × List Char)
  | [] => none
  | c :: r =>
    if c = '"' then some ([], r)
    else do
      let v ← charCode c
      let (s, t) ← readQuoted r
      some (v :: s, t)

/-- A string operand, `"s"` or `"s"*n` (R91), and what follows it. -/
def readString : List Char → Option (List Character × List Char)
  | '"' :: r => do
    match ← readQuoted r with
    | (s, '*' :: t) =>
      let (n, u) ← readNumber t
      some ((List.replicate n s).flatten, u)
    | (s, t) => some (s, t)
  | _ => none

/-- Nothing follows but spaces or a comment (R90). -/
def lineEnds (cs : List Char) : Bool :=
  match cs.dropWhile (· == ' ') with
  | [] => true
  | c :: _ => c == ';'

/-- What a line's operand stands for, when the line ends after it. -/
def operand (read : List Char → Option (α × List Char)) (f : α → List HostInput) (cs : List Char) : Option (List HostInput) :=
  match read cs with
  | some (v, r) => if lineEnds r then some (f v) else none
  | none => none

/-- What the host presents for one line of a listing (R90, R91); nothing for a blank or comment line; none for a line
that is not of the syntax. -/
def readLine (line : String) : Option (List HostInput) :=
  let cs := line.toList.dropWhile (· == ' ')
  let m := String.ofList (cs.takeWhile Char.isUpper)
  let r := cs.dropWhile Char.isUpper
  let arg := r.dropWhile (· == ' ')
  let plain := fun ins => if lineEnds r then some ins else none
  if m = "" then plain []
  else if m = "NOP" then plain [command 0x000#12]
  else if m = "CLRB" then plain [command 0x100#12]
  else if m = "CLRK" then plain [command 0x200#12]
  else if m = "ENC" then plain [command 0x500#12]
  else if m = "DEC" then plain [command 0x600#12]
  else if m = "ACK" then plain [command 0x700#12]
  else if m = "RESET" then plain resetLine
  else if m = "PUSHB" then operand readChar (fun c => pushbs [c]) arg
  else if m = "PUSHK" then operand readChar (fun c => pushks [c]) arg
  else if m = "PUSHBS" then operand readString pushbs arg
  else if m = "PUSHKS" then operand readString pushks arg
  else if m = "LOADB" then operand readString loadb arg
  else if m = "LOADK" then operand readString loadk arg
  else if m = "WAIT" then operand readNumber wait arg
  else none

/-- What the host presents for a listing, line by line. -/
def readListing : List String → Option (List HostInput)
  | [] => some []
  | l :: ls => do
    let a ← readLine l
    let b ← readListing ls
    some (a ++ b)

end Sys2Proof.Machine
end

