-- ==== Sys2Proof/Safety.lean ====
section
/-! DEFINITION. What counts as a safe run: the invariants of 10_state.md R36, and the vocabulary the statements use. -/
namespace Sys2Proof.Machine

/-- The key cells `addr .. addr+n-1` have been written. -/
def keyWritten (m : Memory) (addr n : Nat) : Prop := ∀ a, addr ≤ a → a < addr + n → (Memory.read m a).isSome

/-- The invariants of R36 that one state can show, with the canonical form of the key store. -/
structure StateInv (s : State) : Prop where
  /-- R36(a): the block counter. -/
  blen_le : s.BLEN.toNat ≤ 28
  /-- R36(a): the key counter. -/
  klen_le : s.KLEN.toNat ≤ 2520
  /-- R36(a): the round counter. -/
  rnd_le : s.RND.toNat ≤ 55
  /-- R36(b). -/
  err_iff : s.ERR ≠ .none ↔ s.ST = .error
  /-- R36(c). -/
  running : s.ST = .busy ∨ s.ST = .done → s.BLEN = 27#5 ∧ s.BBAD = false ∧ s.KLEN = 2520#12 ∧ s.KBAD = false
  /-- R36(d): every counted key cell has been written. -/
  key_written : keyWritten s.KEY 0 s.KLEN.toNat
  /-- R36(e): the block buffer is 0 beyond the characters pushed. -/
  blk_tail : s.ST = .idle ∨ s.ST = .error → ∀ p, min s.BLEN.toNat 27 ≤ p → p < 27 → pos s.BLK p = false
  /-- The key store is in canonical form. -/
  key_wf : Memory.wf s.KEY = true

/-- The state right after the sampled inputs change: what a host that drives the port with `ins` will present. -/
def withInputs (s : State) (ins : List HostInput) : State := { s with inputs := ins }

/-- A host that does not reset. -/
def noReset (ins : List HostInput) : Prop := ∀ h ∈ ins, h.rst = false

/-- `k` steps of the machine, stopping at the first fault or refusal. -/
abbrev run (k : Nat) (s : State) : Host.Outcome State Fault Refusal := Host.Core.run Sys2Proof.core k s

/-- The key store holds the 2520-bit key K (R51, R54). -/
def holdsKey (m : Memory) (K : BitSeq 2520) : Prop := ∀ a, a < 2520 → Memory.read m a = some (pos K a)

/-- The window of round r holds this round key pair, at the addresses of R54. -/
def holdsRoundKey (m : Memory) (r : Nat) (K27 : BigKeyBits) (K18 : SmallKeyBits) : Prop :=
  (∀ p, p < 27 → Memory.read m (45 * r + p) = some (pos K27 p)) ∧
    ∀ q, q < 18 → Memory.read m (45 * r + 27 + q) = some (pos K18 q)

/-- The rows of format CTRL that are functions (R8, R81): they are not what a step fetches. -/
def functionRow : Instr → Bool
  | .mix _ _ | .fp _ | .fpi _ | .kp _ _ | .sb _ | .sbi _ | .encr _ | .decr _ | .encrypt | .decrypt => true
  | _ => false

/-- The rows of the reserved words (R82, R169). -/
def reservedRow : Instr → Bool
  | .reserved0 _ | .reserved1 _ | .reserved2 _ | .reserved5 _ | .reserved6 _ | .reserved7 _ | .reservedHi _ _ => true
  | _ => false

/-- The Block after the first k rounds in direction d (R141, R142). -/
def roundsDone (d : Direction) (B : Block) (K : BitSeq 2520) (k : Nat) : Block :=
  match d with
  | .encrypt => encRounds B K k
  | .decrypt => decRounds B K k

/-- The value of `RND` when k of the 56 rounds have run: the index of the next round, or of the last one (R28, R148). -/
def rndAfter (d : Direction) (k : Nat) : BitVec 6 :=
  match d with
  | .encrypt => BitVec.ofNat 6 (min k 55)
  | .decrypt => BitVec.ofNat 6 (55 - k)

/-- The character that stands for a bit (R53, R83). -/
def bitChar (b : Bit) : Character := if b then 0x31#8 else 0x30#8

end Sys2Proof.Machine
end

