-- ==== Sys2Proof/Certificates/Slice0/Obligations.lean ====
section
/-! DEFINITION. The statements for the provers, from the numbered rules of spec/. -/

open Sys2Proof Sys2Proof.Machine

/-! ### The host commands (43_host_commands.md) -/

/-- R161. NOP (word 0x000) changes nothing in any state; outside BUSY the step that samples it only consumes the input;
in BUSY the step still performs its round. -/
def Obligations.NopChangesNothing : Prop :=
  decodeCmd 0x000#12 = .nop ∧ (∀ s : State, exec .nop s = .next s) ∧
  (∀ s : State, (sampled s).rst = false → (sampled s).cmd = 0x000#12 → s.ST ≠ .busy → step s = .next (consume s)) ∧
  ∀ s : State, (sampled s).rst = false → (sampled s).cmd = 0x000#12 → s.ST = .busy → s.RND.toNat ≤ 55 →
    step s = match s.DIR with
      | .encrypt => exec (.roundstepEnc s.RND) (consume s)
      | .decrypt => exec (.roundstepDec s.RND) (consume s)

/-- R162. CLRB (word 0x100), accepted in IDLE only: the block buffer emptied, nothing else changed; on an already empty
buffer nothing changes. -/
def Obligations.ClrbEmptiesBlockBuffer : Prop :=
  decodeCmd 0x100#12 = .clrb ∧
  (∀ s : State, s.ST = .idle → exec .clrb s = .next { s with BLK := ZERO27, BLEN := 0#5, BBAD := false }) ∧
  (∀ s : State, s.ST ≠ .idle → exec .clrb s = .next s) ∧
  ∀ s : State, s.BLK = ZERO27 → s.BLEN = 0#5 → s.BBAD = false → exec .clrb s = .next s

/-- R163. PUSHB in IDLE: below 27 characters the character's bit is written at position `BLEN` and at no other, an
invalid character writes 0 and sets `BBAD`, and `BLEN` counts it; at 27 only `BLEN` becomes 28; at 28 nothing changes.
Elsewhere it is dropped. -/
def Obligations.PushbAppendsCharacter : Prop :=
  ∀ (s : State) (ch : Character),
    (s.ST = .idle → s.BLEN.toNat < 27 → ∃ B : Block,
      exec (.pushb ch) s =
        .next { s with BLK := B, BLEN := s.BLEN + 1#5, BBAD := s.BBAD || (ch != 0x30#8 && ch != 0x31#8) } ∧
      pos B s.BLEN.toNat = (ch == 0x31#8) ∧
      ∀ p, p < 27 → p ≠ s.BLEN.toNat → pos B p = pos s.BLK p) ∧
    (s.ST = .idle → s.BLEN = 27#5 → exec (.pushb ch) s = .next { s with BLEN := 28#5 }) ∧
    (s.ST = .idle → 28 ≤ s.BLEN.toNat → exec (.pushb ch) s = .next s) ∧
    (s.ST ≠ .idle → exec (.pushb ch) s = .next s)

/-- R164, R57. PUSHK in IDLE: below 2520 characters the character's bit is written to the key cell at address `KLEN`
and every other cell reads as before, an invalid character writes 0 and sets `KBAD`, and `KLEN` counts it; at 2520
nothing changes, whatever the character. Elsewhere it is dropped. -/
def Obligations.PushkAppendsCharacter : Prop :=
  ∀ (s : State) (ch : Character),
    (s.ST = .idle → s.KLEN.toNat < 2520 → ∃ m : Memory,
      exec (.pushk ch) s =
        .next { s with KEY := m, KLEN := s.KLEN + 1#12, KBAD := s.KBAD || (ch != 0x30#8 && ch != 0x31#8) } ∧
      Memory.read m s.KLEN.toNat = some (ch == 0x31#8) ∧
      ∀ a, a ≠ s.KLEN.toNat → Memory.read m a = Memory.read s.KEY a) ∧
    (s.ST = .idle → 2520 ≤ s.KLEN.toNat → exec (.pushk ch) s = .next s) ∧
    (s.ST ≠ .idle → exec (.pushk ch) s = .next s)

/-- R165. CLRK (word 0x200), accepted in IDLE only: `KLEN` and `KBAD` cleared, nothing else changed; every key cell is
left as it is. -/
def Obligations.ClrkEmptiesKey : Prop :=
  decodeCmd 0x200#12 = .clrk ∧
  (∀ s : State, s.ST = .idle → ∃ t, exec .clrk s = .next t ∧ t = { s with KLEN := 0#12, KBAD := false } ∧
    ∀ a, Memory.read t.KEY a = Memory.read s.KEY a) ∧
  ∀ s : State, s.ST ≠ .idle → exec .clrk s = .next s

/-- R166, R145. ENC in IDLE with a valid block and a valid key starts an encryption and executes no round; outside IDLE
it is dropped. -/
def Obligations.EncStartsEncryption : Prop :=
  (∀ s : State, s.ST = .idle → s.BLEN = 27#5 → s.BBAD = false → s.KLEN = 2520#12 → s.KBAD = false →
    exec .enc s = .next { s with DIR := .encrypt, RND := 0#6, ST := .busy }) ∧
  ∀ s : State, s.ST ≠ .idle → exec .enc s = .next s

/-- R167, R145. DEC in IDLE with a valid block and a valid key starts a decryption and executes no round; outside IDLE
it is dropped. -/
def Obligations.DecStartsDecryption : Prop :=
  (∀ s : State, s.ST = .idle → s.BLEN = 27#5 → s.BBAD = false → s.KLEN = 2520#12 → s.KBAD = false →
    exec .dec s = .next { s with DIR := .decrypt, RND := 55#6, ST := .busy }) ∧
  ∀ s : State, s.ST ≠ .idle → exec .dec s = .next s

/-- R191. ERR_BLOCK is raised by ENC or DEC accepted in IDLE when `BlockValid` is false, that is when `BLEN` is not 27
or `BBAD` is 1, whatever the key: `ST` and `ERR` are written and nothing else. With a valid block neither command ends in
ERROR with ERR_BLOCK. -/
def Obligations.BlockErrorRaisedByBadBlock : Prop :=
  (∀ s : State, blockValid s = false ↔ s.BLEN ≠ 27#5 ∨ s.BBAD = true) ∧
  (∀ s : State, s.ST = .idle → blockValid s = false →
    exec .enc s = .next { s with ST := .error, ERR := .errBlock } ∧
    exec .dec s = .next { s with ST := .error, ERR := .errBlock }) ∧
  ∀ s : State, s.ST = .idle → blockValid s = true →
    ∀ t, (exec .enc s = .next t ∨ exec .dec s = .next t) → ¬ (t.ST = .error ∧ t.ERR = .errBlock)

/-- R192. ERR_KEY is raised by ENC or DEC accepted in IDLE when `BlockValid` is true and `KeyValid` is false, that is
when `KLEN` is below 2520 or `KBAD` is 1; the outputs `klen` and `kbad` then tell the two causes apart. -/
def Obligations.KeyErrorRaisedByBadKey : Prop :=
  (∀ s : State, s.KLEN.toNat ≤ 2520 → (keyValid s = false ↔ s.KLEN.toNat < 2520 ∨ s.KBAD = true)) ∧
  (∀ s : State, s.ST = .idle → blockValid s = true → keyValid s = false →
    exec .enc s = .next { s with ST := .error, ERR := .errKey } ∧
    exec .dec s = .next { s with ST := .error, ERR := .errKey }) ∧
  ∀ s : State, s.ST = .idle → blockValid s = true → keyValid s = false → s.KLEN.toNat ≤ 2520 →
    ∀ t, (exec .enc s = .next t ∨ exec .dec s = .next t) →
      ((outputs t).klen = 2520#12 → (outputs t).kbad = true) ∧ (outputs t).klen = s.KLEN ∧ (outputs t).kbad = s.KBAD

/-- R168, R197. ACK: from DONE the result is discarded and the block buffer emptied, the key kept; from ERROR only `ST`
and `ERR` change; in IDLE nothing, in BUSY dropped. -/
def Obligations.AckAcknowledges : Prop :=
  ∀ s : State,
    (s.ST = .done → exec .ack s = .next { s with ST := .idle, BLK := ZERO27, BLEN := 0#5, BBAD := false }) ∧
    (s.ST = .error → exec .ack s = .next { s with ST := .idle, ERR := .none }) ∧
    (s.ST = .idle → exec .ack s = .next s) ∧
    (s.ST = .busy → exec .ack s = .next s)

/-- R169. Every word of the reserved rows decodes to a reserved instruction; every reserved instruction raises ERR_CMD
in IDLE and changes nothing else, and is dropped in DONE, ERROR and BUSY. -/
def Obligations.ReservedWordsRaiseErrCmd : Prop :=
  (∀ w : CmdWord, reservedRow (decodeCmd w) = true ↔
    (cmdCh w ≠ 0x00#8 ∧ (cmdOp w = 0#4 ∨ cmdOp w = 1#4 ∨ cmdOp w = 2#4 ∨ cmdOp w = 5#4 ∨ cmdOp w = 6#4 ∨ cmdOp w = 7#4)) ∨
    8 ≤ (cmdOp w).toNat) ∧
  ∀ (i : Instr) (s : State), reservedRow i = true →
    (s.ST = .idle → exec i s = .next { s with ST := .error, ERR := .errCmd }) ∧
    (s.ST ≠ .idle → exec i s = .next s)

/-- R160, the rows DONE and ERROR of its table: every word but ACK leaves the state as it is. -/
def Obligations.DoneAndErrorDropAllButAck : Prop :=
  ∀ s : State, (sampled s).rst = false → (s.ST = .done ∨ s.ST = .error) → (sampled s).cmd ≠ 0x700#12 →
    step s = .next (consume s)

/-! ### Selectors (30_encoding.md R87) -/

/-- R87, R108, through log entry 5 (a selector row, run alone, acts on one group of `BLK`): each of the four orderings
of the table, at each of the nine groups; the other groups and the rest of the state are unchanged. -/
def Obligations.SelectorsReorderOneGroup : Prop :=
  ∀ (s : State) (g : BitVec 4), g.toNat < 9 → ∀ c0 c1 c2 : Bit, grp s.BLK g.toNat = ⟨c0, c1, c2⟩ →
    ∀ i d, (i, d) ∈ [(Instr.selId g, (⟨c0, c1, c2⟩ : Group)), (.selSwap01 g, ⟨c1, c0, c2⟩),
        (.selSwap12 g, ⟨c0, c2, c1⟩), (.selRev g, ⟨c2, c1, c0⟩)] →
      ∃ B : Block, exec i s = .next { s with BLK := B } ∧ grp B g.toNat = d ∧
        ∀ h, h < 9 → h ≠ g.toNat → grp B h = grp s.BLK h

/-! ### The wired functions (40_datapath.md, 41_round.md, 42_driver.md), through log entry 4: `BLK` is operand and result -/

/-- R101. MIX: each position the exclusive-or of Block and BigKey, as integers the bitwise exclusive-or of the values;
in either direction; nothing but `BLK` changes. -/
def Obligations.MixXorsBigKey : Prop :=
  ∀ (s : State) (d : Direction) (r : BitVec 6) (K27 : BigKeyBits) (K18 : SmallKeyBits),
    r.toNat < 56 → holdsRoundKey s.KEY r.toNat K27 K18 →
    ∃ B : Block, exec (.mix d r) s = .next { s with BLK := B } ∧
      (∀ p, p < 27 → pos B p = (pos s.BLK p ^^ pos K27 p)) ∧ B.toNat = s.BLK.toNat ^^^ K27.toNat

/-- R103, R105. FP moves the bit at position i to (3i) mod 26 for i ≤ 25 and keeps position 26; FPI moves it back;
nothing but `BLK` changes. -/
def Obligations.FixedPermutationMovesPositions : Prop :=
  ∀ (s : State) (r : BitVec 6),
    (∃ B : Block, exec (.fp r) s = .next { s with BLK := B } ∧
      (∀ i, i ≤ 25 → pos B (3 * i % 26) = pos s.BLK i) ∧ pos B 26 = pos s.BLK 26) ∧
    ∃ B : Block, exec (.fpi r) s = .next { s with BLK := B } ∧
      (∀ i, i ≤ 25 → pos B i = pos s.BLK (3 * i % 26)) ∧ pos B 26 = pos s.BLK 26

/-- R108. KP: each group reordered by the selector at SmallKey positions 2g and 2g+1; in either direction; nothing but
`BLK` changes. -/
def Obligations.KpReordersEachGroup : Prop :=
  ∀ (s : State) (d : Direction) (r : BitVec 6) (K27 : BigKeyBits) (K18 : SmallKeyBits),
    r.toNat < 56 → holdsRoundKey s.KEY r.toNat K27 K18 →
    ∃ B : Block, exec (.kp d r) s = .next { s with BLK := B } ∧
      ∀ g, g < 9 → ∀ c0 c1 c2 : Bit, grp s.BLK g = ⟨c0, c1, c2⟩ →
        grp B g = match pos K18 (2 * g), pos K18 (2 * g + 1) with
          | false, false => ⟨c0, c1, c2⟩
          | false, true => ⟨c1, c0, c2⟩
          | true, false => ⟨c0, c2, c1⟩
          | true, true => ⟨c2, c1, c0⟩

/-- R111, R112, R114. SB and SBI: each group, read as a number first bit most significant, replaced by its entry of
the forward or the inverse table; nothing but `BLK` changes. -/
def Obligations.SubstitutionAppliesTables : Prop :=
  ∀ (s : State) (r : BitVec 6),
    (∃ B : Block, exec (.sb r) s = .next { s with BLK := B } ∧
      ∀ g, g < 9 → some (gval (grp B g)) = [0, 1, 3, 6, 7, 4, 5, 2][gval (grp s.BLK g)]?) ∧
    ∃ B : Block, exec (.sbi r) s = .next { s with BLK := B } ∧
      ∀ g, g < 9 → some (gval (grp B g)) = [0, 1, 7, 2, 5, 6, 3, 4][gval (grp s.BLK g)]?

/-- R130, R131, R133. ENCR and DECR: the four stages in their order with the round key of round r; nothing but `BLK`
changes. -/
def Obligations.RoundsComposeStages : Prop :=
  ∀ (s : State) (r : BitVec 6) (K27 : BigKeyBits) (K18 : SmallKeyBits),
    r.toNat < 56 → holdsRoundKey s.KEY r.toNat K27 K18 →
    exec (.encr r) s = .next { s with BLK := sb (kp (fp (mix s.BLK K27)) K18) } ∧
    exec (.decr r) s = .next { s with BLK := mix (fpi (kp (sbi s.BLK) K18)) K27 }

/-- R141, R142, R56. ENCRYPT and DECRYPT: 56 rounds, ascending and descending, round i with the key slices
`K{45i .. 45i+27}` and `K{45i+27 .. 45i+45}`; nothing but `BLK` changes. -/
def Obligations.DriversRunAllRoundsInOrder : Prop :=
  ∀ (s : State) (K : BitSeq 2520), holdsKey s.KEY K →
    exec .encrypt s = .next { s with
      BLK := (List.range 56).foldl
        (fun cur i => encr cur (slice K (45 * i) 27) (slice K (45 * i + 27) 18)) s.BLK } ∧
    exec .decrypt s = .next { s with
      BLK := (List.range 56).reverse.foldl
        (fun cur i => decr cur (slice K (45 * i) 27) (slice K (45 * i + 27) 18)) s.BLK }

/-- The two round steps as instructions: `BLK` gets the round's Block; then `ST` becomes DONE after the last round, and
otherwise `RND` is the next index; nothing else changes. R146 says so for `ST` = BUSY and r = `RND`, where a step runs
them (see BusyStepRunsOneRound); that they run alike in every other state, at any round r, is the model's choice
(log entry 11). -/
def Obligations.RoundStepAdvances : Prop :=
  ∀ (s : State) (r : BitVec 6) (K27 : BigKeyBits) (K18 : SmallKeyBits),
    r.toNat < 56 → holdsRoundKey s.KEY r.toNat K27 K18 →
    (r = 55#6 → exec (.roundstepEnc r) s = .next { s with BLK := encr s.BLK K27 K18, ST := .done }) ∧
    (r ≠ 55#6 → exec (.roundstepEnc r) s = .next { s with BLK := encr s.BLK K27 K18, RND := r + 1#6 }) ∧
    (r = 0#6 → exec (.roundstepDec r) s = .next { s with BLK := decr s.BLK K27 K18, ST := .done }) ∧
    (r ≠ 0#6 → exec (.roundstepDec r) s = .next { s with BLK := decr s.BLK K27 K18, RND := r - 1#6 })

/-- Log entry 2 (the model's choice): the two round steps stop at the first cell of their window, in address order, that
has never been written. -/
def Obligations.UnwrittenKeyCellStopsARound : Prop :=
  ∀ (s : State) (r : BitVec 6) (a : Nat), r.toNat < 56 → 45 * r.toNat ≤ a → a < 45 * r.toNat + 45 →
    Memory.read s.KEY a = none → (∀ b, 45 * r.toNat ≤ b → b < a → (Memory.read s.KEY b).isSome) →
    exec (.roundstepEnc r) s = .fault (.keyUnwritten a) ∧ exec (.roundstepDec r) s = .fault (.keyUnwritten a)

/-! ### Laws of the function level -/

/-- R102(a), (b), (c). MIX undoes itself, is commutative, and is a bijection for a fixed key. -/
def Obligations.MixIsSelfInverse : Prop :=
  (∀ A K : Block, mix (mix A K) K = A) ∧ (∀ A K : Block, mix A K = mix K A) ∧
  ∀ K : Block, Function.Bijective fun A => mix A K

/-- R104, R106. The tables of π and of its inverse, read as where FP and FPI take each position, and the spreading of
groups. -/
def Obligations.PermutationTables : Prop :=
  (∀ (A : Block) (i j : Nat), ([0, 3, 6, 9, 12, 15, 18, 21, 24, 1, 4, 7, 10, 13, 16, 19, 22, 25, 2, 5, 8, 11, 14, 17, 20,
    23, 26] : List Nat)[i]? = some j → pos (fp A) j = pos A i) ∧
  (∀ (A : Block) (i j : Nat), ([0, 9, 18, 1, 10, 19, 2, 11, 20, 3, 12, 21, 4, 13, 22, 5, 14, 23, 6, 15, 24, 7, 16, 25, 8,
    17, 26] : List Nat)[i]? = some j → pos (fpi A) j = pos A i) ∧
  ∀ g, g < 9 → (List.map (fun k => perm (3 * g + k) / 3) [0, 1, 2]).Nodup ∧
    (List.map (fun k => permInv (3 * g + k) / 3) [0, 1, 2]).Nodup

/-- R107. π is a bijection; FP and FPI undo each other; the fixed points are 0, 13 and 26 and the rest are the eight
3-cycles listed; FP has order three and FPI is FP twice; both are linear and keep the number of one bits. -/
def Obligations.FixedPermutationLaws : Prop :=
  (∀ j, j < 27 → ∃! i, i < 27 ∧ perm i = j) ∧
  (∀ A : Block, fpi (fp A) = A ∧ fp (fpi A) = A) ∧
  (∀ i, i < 27 → (perm i = i ↔ i = 0 ∨ i = 13 ∨ i = 26)) ∧
  (∀ c ∈ ([(1, 3, 9), (2, 6, 18), (4, 12, 10), (5, 15, 19), (7, 21, 11), (8, 24, 20), (14, 16, 22), (17, 25, 23)] :
    List (Nat × Nat × Nat)), perm c.1 = c.2.1 ∧ perm c.2.1 = c.2.2 ∧ perm c.2.2 = c.1) ∧
  (∀ A : Block, fp (fp (fp A)) = A ∧ fpi A = fp (fp A)) ∧
  (∀ A B : Block, fp (A ^^^ B) = fp A ^^^ fp B ∧ fpi (A ^^^ B) = fpi A ^^^ fpi B) ∧
  ∀ A : Block, (List.range 27).countP (fun p => pos (fp A) p) = (List.range 27).countP (fun p => pos A p) ∧
    (List.range 27).countP (fun p => pos (fpi A) p) = (List.range 27).countP (fun p => pos A p)

/-- R109. The two tables: each output bit of a group by the number 2×s0 + s1, and the group's value for every selector
and every input value. -/
def Obligations.KpMultiplexerTables : Prop :=
  ∀ (A : Block) (K : SmallKeyBits) (g : Nat), g < 9 → ∀ s0 s1 : Bit, pos K (2 * g) = s0 → pos K (2 * g + 1) = s1 →
    some (pos (kp A K) (3 * g)) =
      [pos A (3 * g), pos A (3 * g + 1), pos A (3 * g), pos A (3 * g + 2)][2 * s0.toNat + s1.toNat]? ∧
    some (pos (kp A K) (3 * g + 1)) =
      [pos A (3 * g + 1), pos A (3 * g), pos A (3 * g + 2), pos A (3 * g + 1)][2 * s0.toNat + s1.toNat]? ∧
    some (pos (kp A K) (3 * g + 2)) =
      [pos A (3 * g + 2), pos A (3 * g + 2), pos A (3 * g + 1), pos A (3 * g)][2 * s0.toNat + s1.toNat]? ∧
    some (gval (grp (kp A K) g)) = ([0, 1, 2, 3, 4, 5, 6, 7, 0, 1, 4, 5, 2, 3, 6, 7, 0, 2, 1, 3, 4, 6, 5, 7,
      0, 4, 2, 6, 1, 5, 3, 7] : List Nat)[8 * (2 * s0.toNat + s1.toNat) + gval (grp A g)]?

/-- R110. KP with the same SmallKey undoes itself; for a fixed SmallKey it is a bijection and linear; group g of the
result depends only on group g of the Block and on selector g. -/
def Obligations.KeyedPermutationLaws : Prop :=
  (∀ (A : Block) (K : SmallKeyBits), kp (kp A K) K = A) ∧
  (∀ K : SmallKeyBits, Function.Bijective fun A => kp A K) ∧
  (∀ (A B : Block) (K : SmallKeyBits), kp (A ^^^ B) K = kp A K ^^^ kp B K) ∧
  ∀ (A A' : Block) (K K' : SmallKeyBits) (g : Nat), g < 9 → grp A g = grp A' g → pos K (2 * g) = pos K' (2 * g) →
    pos K (2 * g + 1) = pos K' (2 * g + 1) → grp (kp A K) g = grp (kp A' K') g

/-- R113. The tables undo each other, hence SB and SBI do; the forward table has the fixed points 0, 1 and the 6-cycle
(2 3 6 5 4 7), so SB is not an involution and SBI is another function; the table is not linear; group g of the result
depends only on group g of the Block. -/
def Obligations.SubstitutionLaws : Prop :=
  (∀ v, v < 8 → sboxInvTable[sboxTable[v]!]! = v ∧ sboxTable[sboxInvTable[v]!]! = v) ∧
  (∀ A : Block, sbi (sb A) = A ∧ sb (sbi A) = A) ∧
  (sboxTable[0]! = 0 ∧ sboxTable[1]! = 1 ∧ sboxTable[2]! = 3 ∧ sboxTable[3]! = 6 ∧ sboxTable[6]! = 5 ∧
    sboxTable[5]! = 4 ∧ sboxTable[4]! = 7 ∧ sboxTable[7]! = 2) ∧
  (∃ A : Block, sb (sb A) ≠ A) ∧ (∃ A : Block, sbi A ≠ sb A) ∧
  (sboxTable[1]! ^^^ sboxTable[2]! = 2 ∧ sboxTable[1 ^^^ 2]! = 6) ∧
  ∀ (A A' : Block) (g : Nat), g < 9 → grp A g = grp A' g →
    grp (sb A) g = grp (sb A') g ∧ grp (sbi A) g = grp (sbi A') g

/-- R132. A decryption round undoes an encryption round with the same keys and the other way round, for every Block and
every key pair, so each round function is a bijection for fixed keys. -/
def Obligations.RoundsAreInvertible : Prop :=
  (∀ (B : Block) (K27 : BigKeyBits) (K18 : SmallKeyBits), decr (encr B K27 K18) K27 K18 = B) ∧
  (∀ (C : Block) (K27 : BigKeyBits) (K18 : SmallKeyBits), encr (decr C K27 K18) K27 K18 = C) ∧
  ∀ (K27 : BigKeyBits) (K18 : SmallKeyBits),
    (Function.Bijective fun B => encr B K27 K18) ∧ Function.Bijective fun C => decr C K27 K18

/-- Corner cases of R130 and R131: a BigKey equal to the Block gives the zero Block; under zero keys an encryption round
is SB after FP, and keeps the zero Block; a decryption round takes the zero Block to the BigKey. -/
def Obligations.RoundCornerCases : Prop :=
  (∀ (B : Block) (K18 : SmallKeyBits), encr B B K18 = ZERO27) ∧ (∀ B : Block, encr B 0#27 0#18 = sb (fp B)) ∧
  encr ZERO27 0#27 0#18 = ZERO27 ∧
  (∀ (K27 : BigKeyBits) (K18 : SmallKeyBits), decr ZERO27 K27 K18 = K27) ∧
  ∀ K18 : SmallKeyBits, decr ZERO27 0#27 K18 = ZERO27

/-- R143. For every key of sufficient length, DECRYPT and ENCRYPT undo each other on every Block, so both are bijections
and each is the other's inverse. -/
def Obligations.CipherIsInvertible : Prop :=
  ∀ (n : Nat) (K : BitSeq n), 2520 ≤ n →
    (∀ B : Block, decrypt (encrypt B K) K = B) ∧ (∀ C : Block, encrypt (decrypt C K) K = C) ∧
    (Function.Bijective fun B => encrypt B K) ∧ Function.Bijective fun C => decrypt C K

/-- R140. Bits beyond 2520 are ignored: a key and any extension of it encrypt and decrypt alike. -/
def Obligations.KeyBitsBeyond2520AreIgnored : Prop :=
  ∀ (n m : Nat) (K : BitSeq n) (E : BitSeq m) (B : Block), 2520 ≤ n →
    encrypt B (K ++ E) = encrypt B K ∧ decrypt B (K ++ E) = decrypt B K

/-- R141, R142, the source's all-zero scenario (95_test_vectors.md S5): under a key whose first 2520 bits are zero, the
zero Block encrypts and decrypts to itself. -/
def Obligations.ZeroKeyKeepsZeroBlock : Prop :=
  ∀ (n : Nat) (K : BitSeq n), 2520 ≤ n → (∀ a, a < 2520 → pos K a = false) →
    encrypt ZERO27 K = ZERO27 ∧ decrypt ZERO27 K = ZERO27

/-! ### Encodings (30_encoding.md) -/

/-- Decode and encode agree, for every row of the opcode table and every operand its encoding admits: an instruction's
words are exactly the words that match its row; an instruction of format CMD (R82) or KSEL (R87) and a round step has one
word and is what that word decodes to; and whatever a word decodes to is well formed and has that word. R81 says that no
word selects a wired function: that the control word of a round counts as a word of each of its stages, of its round
function and of its operation, and that ENCRYPT and DECRYPT have the 56 words of their rounds, is the model's choice
(log entry 6). -/
def Obligations.DecodeAndEncodeAgree : Prop :=
  (∀ (i : Instr) (c : Code), i.wf = true → (c ∈ encode i ↔ i ∈ rowsOf c)) ∧
  (∀ i : Instr, i.wf = true → functionRow i = false → ∃ c, encode i = [c] ∧ decode c = .ok i) ∧
  ∀ (c : Code) (i : Instr), decode c = .ok i → i.wf = true ∧ encode i = [c]

/-- R82, R84. The rows of format CMD are disjoint and cover all 4096 words: the well-formed instructions that a word
belongs to are exactly one, the one it decodes to. -/
def Obligations.EveryCommandWordHasOneInstruction : Prop :=
  ∀ (w : CmdWord) (i : Instr), (i.wf = true ∧ .cmd w ∈ encode i) ↔ i = decodeCmd w

/-- R92. The fifteen worked encodings, with the bit each character stands for. -/
def Obligations.WorkedEncodingsDecode : Prop :=
  decodeCmd 0x000#12 = .nop ∧ decodeCmd 0x100#12 = .clrb ∧ decodeCmd 0x200#12 = .clrk ∧
  (decodeCmd 0x330#12 = .pushb 0x30#8 ∧ charBit 0x30#8 = some false) ∧
  (decodeCmd 0x331#12 = .pushb 0x31#8 ∧ charBit 0x31#8 = some true) ∧
  (decodeCmd 0x30A#12 = .pushb 0x0A#8 ∧ charBit 0x0A#8 = none) ∧
  (decodeCmd 0x301#12 = .pushb 0x01#8 ∧ charBit 0x01#8 = none) ∧
  decodeCmd 0x431#12 = .pushk 0x31#8 ∧ (decodeCmd 0x478#12 = .pushk 0x78#8 ∧ charBit 0x78#8 = none) ∧
  decodeCmd 0x500#12 = .enc ∧ decodeCmd 0x600#12 = .dec ∧ decodeCmd 0x700#12 = .ack ∧
  decodeCmd 0x501#12 = .reserved5 0x01#8 ∧ decodeCmd 0x800#12 = .reservedHi 8#4 0x00#8 ∧
  decodeCmd 0xFFF#12 = .reservedHi 15#4 0xFF#8

/-- R87. The four selector words at each of the nine groups decode to the four orderings. -/
def Obligations.SelectorWordsDecode : Prop :=
  ∀ g : BitVec 4, g.toNat < 9 →
    decode (.ksel g 0b00#2) = .ok (.selId g) ∧ decode (.ksel g 0b01#2) = .ok (.selSwap01 g) ∧
    decode (.ksel g 0b10#2) = .ok (.selSwap12 g) ∧ decode (.ksel g 0b11#2) = .ok (.selRev g)

/-! ### The key store (20_memory.md) -/

/-- R54, R56. When the key store holds K, the machine's two reads for round i answer `BigKey(K, i)` and
`SmallKey(K, i)`, cut from K at the addresses of the layout, the selector of group g being cells 45i+27+2g and the next.
A read past cell 2519, which R55 does not define, ends in a fault: the model's choice (log entry 3). -/
def Obligations.RoundKeyReadsAreKeySlices : Prop :=
  (∀ (m : Memory) (K : BitSeq 2520) (i : Nat), holdsKey m K → i < 56 →
    memRead m (45 * i) 27 = .ok (bigKey K i) ∧ memRead m (45 * i + 27) 18 = .ok (smallKey K i) ∧
    (∀ p, p < 27 → pos (bigKey K i) p = pos K (45 * i + p)) ∧
    ∀ g, g < 9 → pos (smallKey K i) (2 * g) = pos K (45 * i + 27 + 2 * g) ∧
      pos (smallKey K i) (2 * g + 1) = pos K (45 * i + 27 + 2 * g + 1)) ∧
  ∀ (m : Memory) (addr n : Nat), 2520 < addr + n → memRead m addr n = .error (.keyRange addr n)

/-- R57, R58, R62. In a step the key store changes only by a PUSHK accepted in IDLE, and then only at address `KLEN`,
which is below 2520: every other cell reads as before. -/
def Obligations.KeyChangesOnlyByPushk : Prop :=
  ∀ s t : State, step s = .next t → ∀ a, Memory.read t.KEY a ≠ Memory.read s.KEY a →
    (sampled s).rst = false ∧ s.ST = .idle ∧ cmdOp (sampled s).cmd = 0x4#4 ∧ a = s.KLEN.toNat ∧ s.KLEN.toNat < 2520

/-- The memory frame of the instructions: no instruction but PUSHK changes what any key cell reads as. -/
def Obligations.OnlyPushkWritesKeyCells : Prop :=
  ∀ (i : Instr) (s t : State), (∀ ch, i ≠ .pushk ch) → exec i s = .next t →
    ∀ a, Memory.read t.KEY a = Memory.read s.KEY a

/-- R51. From an empty key, n ≤ 2520 pushes of bit characters in IDLE write the bits to cells 0 .. n-1 in their order,
leave every other cell, and count n. -/
def Obligations.KeyPushesFillCellsInOrder : Prop :=
  ∀ (s : State) (bits : List Bit), s.ST = .idle → s.KLEN = 0#12 → s.KBAD = false → bits.length ≤ 2520 →
    ∃ m : Memory, run bits.length (withInputs s (pushks (bits.map bitChar))) =
        .next (withInputs { s with KEY := m, KLEN := BitVec.ofNat 12 bits.length } []) ∧
      (∀ (a : Nat) (b : Bit), bits[a]? = some b → Memory.read m a = some b) ∧
      ∀ a, bits.length ≤ a → Memory.read m a = Memory.read s.KEY a

/-- R52. From an empty block buffer, n ≤ 27 pushes of bit characters in IDLE write the bits to positions 0 .. n-1 in
their order, leave every other position, and count n. -/
def Obligations.BlockPushesFillPositionsInOrder : Prop :=
  ∀ (s : State) (bits : List Bit), s.ST = .idle → s.BLEN = 0#5 → s.BBAD = false → bits.length ≤ 27 →
    ∃ B : Block, run bits.length (withInputs s (pushbs (bits.map bitChar))) =
        .next (withInputs { s with BLK := B, BLEN := BitVec.ofNat 5 bits.length } []) ∧
      (∀ (p : Nat) (b : Bit), bits[p]? = some b → pos B p = b) ∧
      ∀ p, bits.length ≤ p → p < 27 → pos B p = pos s.BLK p

/-! ### The step, the ports and reset (42_driver.md section 2, 10_state.md, 70_reset_and_hazards.md) -/

/-- R150. A step with `rst` = 1 is the reset step; in BUSY it runs the round step the control state decodes to, whatever
the command word; elsewhere it runs the instruction the command word decodes to, which is always one. Around the
instruction the step only consumes the sampled inputs. -/
def Obligations.StepRunsDecodedInstruction : Prop :=
  ∀ s : State,
    ((sampled s).rst = true → step s = .next (resetState (consume s))) ∧
    (∀ i, (sampled s).rst = false → decode (fetch s) = .ok i → step s = exec i (consume s)) ∧
    (s.ST ≠ .busy → decode (fetch s) = .ok (decodeCmd (sampled s).cmd)) ∧
    (s.ST = .busy → s.DIR = .encrypt → s.RND.toNat ≤ 55 → decode (fetch s) = .ok (.roundstepEnc s.RND)) ∧
    (s.ST = .busy → s.DIR = .decrypt → s.RND.toNat ≤ 55 → decode (fetch s) = .ok (.roundstepDec s.RND))

/-- R146. The whole of a step in BUSY with `rst` = 0, whatever the command word: `BLK` by the round function of `DIR`
with the key cells of round `RND`; then `ST` becomes DONE after the last round, and otherwise `RND` moves by one, never
both; nothing else changes. The example of the rule is the first clause at `RND` = 55. -/
def Obligations.BusyStepRunsOneRound : Prop :=
  ∀ (s : State) (K27 : BigKeyBits) (K18 : SmallKeyBits), (sampled s).rst = false → s.ST = .busy → s.RND.toNat ≤ 55 →
    holdsRoundKey s.KEY s.RND.toNat K27 K18 →
    (s.DIR = .encrypt → step s = .next
      { s with
        BLK := encr s.BLK K27 K18
        ST := if s.RND = 55#6 then .done else .busy
        RND := if s.RND = 55#6 then s.RND else s.RND + 1#6
        inputs := s.inputs.tail }) ∧
    (s.DIR = .decrypt → step s = .next
      { s with
        BLK := decr s.BLK K27 K18
        ST := if s.RND = 0#6 then .done else .busy
        RND := if s.RND = 0#6 then s.RND else s.RND - 1#6
        inputs := s.inputs.tail })

/-- R220. A step with `rst` = 1, in every state and whatever the command word, yields the reset state with the key cells
of the state before; a step leaves BUSY only by a reset or by the last round; with `rst` = 0 a step in BUSY is the round
step, whatever the command word, and a step is the ordinary one, which runs the instruction decoded. -/
def Obligations.ResetOverridesEverything : Prop :=
  (∀ s : State, (sampled s).rst = true → step s = .next
    { BLK := ZERO27, BLEN := 0#5, BBAD := false, KEY := s.KEY, KLEN := 0#12, KBAD := false, ST := .idle, ERR := .none,
      DIR := .encrypt, RND := 0#6, inputs := s.inputs.tail }) ∧
  (∀ s t : State, s.ST = .busy → step s = .next t → t.ST ≠ .busy →
    (sampled s).rst = true ∨
      (t.ST = .done ∧ (s.DIR = .encrypt ∧ s.RND = 55#6 ∨ s.DIR = .decrypt ∧ s.RND = 0#6))) ∧
  (∀ (s : State) (w : CmdWord), s.ST = .busy → s.RND.toNat ≤ 55 →
    step { s with inputs := ⟨false, w⟩ :: s.inputs } = match s.DIR with
      | .encrypt => exec (.roundstepEnc s.RND) s
      | .decrypt => exec (.roundstepDec s.RND) s) ∧
  ∀ (s : State) (i : Instr), (sampled s).rst = false → decode (fetch s) = .ok i → step s = exec i (consume s)

/-- R35. After a step with `rst` = 1 every register but the key cells has the value of the table, which is its value in
`State.reset` too, and the nine outputs are the ones listed. -/
def Obligations.ResetValuesAndOutputs : Prop :=
  (State.reset.BLK = ZERO27 ∧ State.reset.BLEN = 0#5 ∧ State.reset.BBAD = false ∧ State.reset.KLEN = 0#12 ∧
    State.reset.KBAD = false ∧ State.reset.ST = .idle ∧ State.reset.ERR = .none ∧ State.reset.DIR = .encrypt ∧
    State.reset.RND = 0#6) ∧
  ∀ s : State, (sampled s).rst = true → ∃ t, step s = .next t ∧
    t = { State.reset with KEY := s.KEY, inputs := s.inputs.tail } ∧
    outputs t = { st := 0#2, err := 0#2, ready := true, irq := false, res := 0#27, blen := 0#5, klen := 0#12, bbad := false,
                  kbad := false }

/-- R31. The nine outputs as functions of the state: the codes of `ST` and `ERR`, `ready`, `irq`, the gated result with
conventional bit 26 - p carrying position p, the counters and flags; and the characters of the result, in DONE only. -/
def Obligations.OutputsFollowTheState : Prop :=
  ∀ s : State,
    (outputs s).st = (match s.ST with | .idle => 0#2 | .busy => 1#2 | .done => 2#2 | .error => 3#2) ∧
    (outputs s).err = (match s.ERR with | .none => 0#2 | .errBlock => 1#2 | .errKey => 2#2 | .errCmd => 3#2) ∧
    ((outputs s).ready = true ↔ s.ST = .idle) ∧
    ((outputs s).irq = true ↔ s.ST = .done ∨ s.ST = .error) ∧
    (s.ST = .done → (outputs s).res = s.BLK ∧ ∀ p, p < 27 → (outputs s).res.getLsbD (26 - p) = pos s.BLK p) ∧
    (s.ST ≠ .done → (outputs s).res = 0#27) ∧
    (outputs s).blen = s.BLEN ∧ (outputs s).klen = s.KLEN ∧ (outputs s).bbad = s.BBAD ∧ (outputs s).kbad = s.KBAD ∧
    (∀ p, p < 27 → s.ST = .done → resch s p = some (if pos s.BLK p then 0x31#8 else 0x30#8)) ∧
    ∀ p, s.ST ≠ .done → resch s p = none

/-- R200. `irq` is cleared by the ACK that leaves DONE or ERROR and by a reset step, and by nothing else. -/
def Obligations.IrqIsClearedByAckAndReset : Prop :=
  ∀ s : State, (outputs s).irq = true →
    ((sampled s).rst = true ∨ (sampled s).cmd = 0x700#12 → ∃ t, step s = .next t ∧ (outputs t).irq = false) ∧
    ((sampled s).rst = false → (sampled s).cmd ≠ 0x700#12 → ∃ t, step s = .next t ∧ (outputs t).irq = true)

/-! ### Whole-machine rules -/

/-- R27, the column "left by": with `rst` = 0 the controller state changes in these ways and no others. -/
def Obligations.ControllerStateTransitions : Prop :=
  ∀ s t : State, (sampled s).rst = false → step s = .next t → t.ST ≠ s.ST →
    (s.ST = .idle ∧ t.ST = .busy ∧ ((sampled s).cmd = 0x500#12 ∨ (sampled s).cmd = 0x600#12) ∧
      blockValid s = true ∧ keyValid s = true) ∨
    (s.ST = .idle ∧ t.ST = .error ∧ ((sampled s).cmd = 0x500#12 ∨ (sampled s).cmd = 0x600#12) ∧
      (blockValid s = false ∨ keyValid s = false)) ∨
    (s.ST = .idle ∧ t.ST = .error ∧ reservedRow (decodeCmd (sampled s).cmd) = true) ∨
    (s.ST = .busy ∧ t.ST = .done ∧ (s.DIR = .encrypt ∧ s.RND = 55#6 ∨ s.DIR = .decrypt ∧ s.RND = 0#6)) ∨
    ((s.ST = .done ∨ s.ST = .error) ∧ t.ST = .idle ∧ (sampled s).cmd = 0x700#12)

/-- R194, R195. A step that enters ERROR comes from IDLE, writes `ST` and a non-zero `ERR`, and has no other effect. -/
def Obligations.ExceptionsArePrecise : Prop :=
  ∀ s t : State, step s = .next t → s.ST ≠ .error → t.ST = .error →
    s.ST = .idle ∧ t.ERR ≠ .none ∧ t = { s with ST := .error, ERR := t.ERR, inputs := s.inputs.tail }

/-- R148, R198. While the host neither resets nor acknowledges, DONE holds its result and ERROR its one cause, through
any number of steps and any other words. -/
def Obligations.DoneAndErrorHoldUntilAck : Prop :=
  ∀ (s : State) (ins : List HostInput) (k : Nat), (s.ST = .done ∨ s.ST = .error) → noReset ins →
    (∀ h ∈ ins, h.cmd ≠ 0x700#12) → run k (withInputs s ins) = .next (withInputs s (ins.drop k))

/-- R147. The sequence of (`ST`, `DIR`, `RND`) during an operation is the same for every Block, every key and every
stream of command words: two BUSY engines that agree on `DIR` and `RND` agree on all three after each of the remaining
steps. -/
def Obligations.ControlIsIndependentOfData : Prop :=
  ∀ (s s' : State) (ins ins' : List HostInput) (k : Nat), s.ST = .busy → s'.ST = .busy → s.DIR = s'.DIR →
    s.RND = s'.RND → s.RND.toNat ≤ 55 → keyWritten s.KEY 0 2520 → keyWritten s'.KEY 0 2520 → noReset ins → noReset ins' →
    k ≤ (match s.DIR with | .encrypt => 56 - s.RND.toNat | .decrypt => s.RND.toNat + 1) →
    ∃ t t', run k (withInputs s ins) = .next t ∧ run k (withInputs s' ins') = .next t' ∧
      t.ST = t'.ST ∧ t.DIR = t'.DIR ∧ t.RND = t'.RND

/-- R58, R174. No output shows the key store, and outside DONE none shows the Block: two states that agree on the
visible registers, and in DONE on `BLK`, have equal outputs. -/
def Obligations.OutputsHideKeyAndRunningBlock : Prop :=
  ∀ s s' : State, s.ST = s'.ST → s.ERR = s'.ERR → s.BLEN = s'.BLEN → s.KLEN = s'.KLEN → s.BBAD = s'.BBAD →
    s.KBAD = s'.KBAD → (s.ST = .done → s.BLK = s'.BLK) → outputs s = outputs s'

/-- R36(a) to (e) hold of the reset state, as does the canonical form of the key store. -/
def Obligations.ResetStateSatisfiesInvariants : Prop := StateInv State.reset

/-- R36(a) to (e) and the canonical form of the key store are kept by every step from every state that has them. -/
def Obligations.StepKeepsInvariants : Prop := ∀ s t : State, StateInv s → step s = .next t → StateInv t

/-- R150, R36. The step is total on every state that satisfies the invariants, whatever the host presents: it answers a
next state, never a fault or a refusal. -/
def Obligations.StepIsTotalUnderInvariants : Prop := ∀ s : State, StateInv s → ∃ t, step s = .next t

/-- R36, R150. Whatever the host presents from reset on, resets included, every run goes on and keeps the invariants. -/
def Obligations.EveryRunFromResetGoesOn : Prop :=
  ∀ (ins : List HostInput) (k : Nat), ∃ t, run k (withInputs State.reset ins) = .next t ∧ StateInv t

/-! ### The machine computes the cipher (42_driver.md R148, R149; 43_host_commands.md R171) -/

/-- R149, R148. When ENC or DEC is accepted and valid with Block B and key K, then k ≤ 56 steps later, whatever command
words the host presents meanwhile and as long as it does not reset, `BLK` is the Block after k rounds, `RND` is as R148
says, `ST` is BUSY until the 56th and then DONE, and nothing else but `DIR` has changed; after the 56th, `BLK` and
`res` are `ENCRYPT(B, K)` or `DECRYPT(B, K)`. -/
def Obligations.MachineComputesTheCipher : Prop :=
  ∀ (d : Direction) (s : State) (K : BitSeq 2520) (ins : List HostInput) (k : Nat),
    s.ST = .idle → s.BLEN = 27#5 → s.BBAD = false → s.KLEN = 2520#12 → s.KBAD = false → holdsKey s.KEY K →
    noReset ins → k ≤ 56 →
    ∃ t, run (1 + k) (withInputs s (startCommand d :: ins)) = .next t ∧
      t = { s with
            BLK := roundsDone d s.BLK K k
            ST := if k = 56 then .done else .busy
            DIR := d
            RND := rndAfter d k
            inputs := ins.drop k } ∧
      (k = 56 → (d = .encrypt → t.BLK = encrypt s.BLK K ∧ (outputs t).res = encrypt s.BLK K) ∧
        (d = .decrypt → t.BLK = decrypt s.BLK K ∧ (outputs t).res = decrypt s.BLK K))

/-- R171. The whole invocation from any IDLE state: a key of at least 2520 bit characters, a block of 27, the start, and
56 waits end in DONE with the result on `res`. -/
def Obligations.InvocationYieldsTheResult : Prop :=
  ∀ (d : Direction) (s : State) (key block : List Bit), s.ST = .idle → 2520 ≤ key.length → block.length = 27 →
    ∃ t, run (1 + key.length + (1 + 27) + 1 + 56)
        (withInputs s (invocation d (key.map bitChar) (block.map bitChar))) = .next t ∧
      t.ST = .done ∧ t.inputs = [] ∧
      (outputs t).res = roundsDone d (ofPos 27 fun p => block.getD p false) (ofPos 2520 fun a => key.getD a false) 56
end

