-- ==== Sys2Proof/Laws/Bits.lean ====
section
/-! SUPPORT. What building, writing and slicing a bit sequence leave at each position. -/
namespace Sys2Proof.Machine

@[simp] theorem pos_ofPos {n p : Nat} (f : Nat → Bit) (h : p < n) : pos (ofPos n f) p = f p := by
  induction n with
  | zero => omega
  | succ n ih =>
    simp only [pos, ofPos, BitVec.getMsbD_concat]
    by_cases hp : p < n
    · simpa [hp, pos] using ih hp
    · have : p = n := by omega
      simp [this]

/-- Two sequences that agree at every position are equal. -/
theorem seq_ext {n : Nat} {A B : BitSeq n} (h : ∀ p, p < n → pos A p = pos B p) : A = B :=
  BitVec.eq_of_getMsbD_eq h

theorem pos_of_le {n p : Nat} (A : BitSeq n) (h : n ≤ p) : pos A p = false := by
  simp [pos, BitVec.getMsbD_of_ge A p h]

@[simp] theorem pos_zero (n p : Nat) : pos (0#n : BitSeq n) p = false := by simp [pos]

theorem ofPos_pos {n : Nat} (A : BitSeq n) : ofPos n (pos A) = A := seq_ext fun _ h => pos_ofPos _ h

theorem ofPos_congr {n : Nat} {f g : Nat → Bit} (h : ∀ p, p < n → f p = g p) : ofPos n f = ofPos n g :=
  seq_ext fun p hp => by rw [pos_ofPos _ hp, pos_ofPos _ hp, h p hp]

@[simp] theorem pos_setPos {n p q : Nat} (A : BitSeq n) (b : Bit) (h : q < n) :
    pos (setPos A p b) q = if q = p then b else pos A q := pos_ofPos _ h

@[simp] theorem pos_slice {m n a j : Nat} (K : BitSeq m) (h : j < n) : pos (slice K a n) j = pos K (a + j) :=
  pos_ofPos _ h

@[simp] theorem groupBit_grp {B : Block} {g k : Nat} (h : k < 3) : groupBit (grp B g) k = pos B (3 * g + k) := by
  obtain rfl | rfl | rfl : k = 0 ∨ k = 1 ∨ k = 2 := by omega
  all_goals rfl

theorem pos_ofGroups {f : Nat → Group} {g k : Nat} (hg : g < 9) (hk : k < 3) :
    pos (ofGroups f) (3 * g + k) = groupBit (f g) k := by
  rw [ofGroups, pos_ofPos _ (by omega)]
  congr 1
  · congr 1; omega
  · omega

@[simp] theorem grp_ofGroups {f : Nat → Group} {g : Nat} (hg : g < 9) : grp (ofGroups f) g = f g := by
  have h0 := pos_ofGroups (f := f) hg (k := 0) (by omega)
  have h1 := pos_ofGroups (f := f) hg (k := 1) (by omega)
  have h2 := pos_ofGroups (f := f) hg (k := 2) (by omega)
  simp only [Nat.add_zero, groupBit] at h0 h1 h2
  simp [grp, h0, h1, h2]

/-- Two Blocks whose nine groups agree are equal. -/
theorem block_ext_groups {A B : Block} (h : ∀ g, g < 9 → grp A g = grp B g) : A = B := by
  refine seq_ext fun p hp => ?_
  have hg := h (p / 3) (by omega)
  have hk : p % 3 < 3 := Nat.mod_lt _ (by omega)
  have e : 3 * (p / 3) + p % 3 = p := Nat.div_add_mod p 3
  rw [← e, ← groupBit_grp hk, ← groupBit_grp hk, hg]

theorem grp_setGroup {B : Block} {g h : Nat} (c : Group) (hh : h < 9) :
    grp (setGroup B g c) h = if h = g then c else grp B h := grp_ofGroups hh

end Sys2Proof.Machine
end

