-- ==== Sys2Proof/Laws/Datapath.lean ====
section
/-! SUPPORT. What each datapath operation leaves at each position or in each group. -/
namespace Sys2Proof.Machine

@[simp] theorem pos_mix {A : Block} {K : BigKeyBits} {p : Nat} (h : p < 27) : pos (mix A K) p = (pos A p ^^ pos K p) :=
  pos_ofPos _ h

@[simp] theorem pos_fp {A : Block} {j : Nat} (h : j < 27) : pos (fp A) j = pos A (permInv j) := pos_ofPos _ h

@[simp] theorem pos_fpi {A : Block} {i : Nat} (h : i < 27) : pos (fpi A) i = pos A (perm i) := pos_ofPos _ h

@[simp] theorem grp_kp {A : Block} {K : SmallKeyBits} {g : Nat} (h : g < 9) :
    grp (kp A K) g = shuffle (selectorAt K g) (grp A g) := grp_ofGroups h

@[simp] theorem grp_sb {A : Block} {g : Nat} (h : g < 9) : grp (sb A) g = substitute sboxTable (grp A g) := grp_ofGroups h

@[simp] theorem grp_sbi {A : Block} {g : Nat} (h : g < 9) : grp (sbi A) g = substitute sboxInvTable (grp A g) :=
  grp_ofGroups h

theorem perm_lt {i : Nat} (h : i < 27) : perm i < 27 := by unfold perm Config.PERM_MOD; split_ifs <;> omega

theorem permInv_lt {j : Nat} (h : j < 27) : permInv j < 27 := by unfold permInv Config.PERM_MOD; split_ifs <;> omega

/-- `9` is the inverse of `3` modulo 26 (R105). -/
theorem permInv_perm {i : Nat} (h : i < 27) : permInv (perm i) = i := by interval_cases i <;> rfl

theorem perm_permInv {j : Nat} (h : j < 27) : perm (permInv j) = j := by interval_cases j <;> rfl

end Sys2Proof.Machine
end

