-- ==== Sys2Proof/Laws/Decode.lean ====
section
/-! SUPPORT. Decoding: the fields of a word the encoder builds, and the words the decoder never refuses. -/
namespace Sys2Proof

@[simp] theorem cmdOp_cmdWord (op : BitVec 4) (ch : Character) : cmdOp (cmdWord op ch) = op := by
  ext i hi
  simp only [cmdOp, cmdWord, BitVec.getElem_extractLsb', BitVec.getLsbD_append]
  rw [if_neg (by omega)]
  simp [← BitVec.getLsbD_eq_getElem]

@[simp] theorem cmdCh_cmdWord (op : BitVec 4) (ch : Character) : cmdCh (cmdWord op ch) = ch := by
  ext i hi
  simp only [cmdCh, cmdWord, BitVec.getElem_extractLsb', BitVec.getLsbD_append]
  rw [if_pos (by omega)]
  simp [← BitVec.getLsbD_eq_getElem]

/-- A command word is its two fields. -/
theorem cmdWord_fields (w : CmdWord) : cmdWord (cmdOp w) (cmdCh w) = w := by
  refine BitVec.eq_of_getLsbD_eq fun i hi => ?_
  simp only [cmdWord, cmdOp, cmdCh, BitVec.getLsbD_append, BitVec.getLsbD_extractLsb']
  split_ifs with h
  · simp [h]
  · have : i - 8 < 4 := by omega
    simp [this, show 8 + (i - 8) = i by omega]

@[simp] theorem ctrlSt_busyWord (d : Direction) (r : BitVec 6) : ctrlSt (busyWord d r) = 0b01#2 := by
  cases d <;> revert r <;> decide

@[simp] theorem ctrlDir_busyWord (d : Direction) (r : BitVec 6) : ctrlDir (busyWord d r) = d := by
  cases d <;> revert r <;> decide

@[simp] theorem ctrlRnd_busyWord (d : Direction) (r : BitVec 6) : ctrlRnd (busyWord d r) = r := by
  cases d <;> revert r <;> decide

/-- Everything a command word can decode to: one of the eight commands, at its own word, or a reserved row (R82, R84). -/
theorem decodeCmd_cases (w : CmdWord) :
    (∃ ch, decodeCmd w = .pushb ch ∧ w = cmdWord 0x3#4 ch) ∨ (∃ ch, decodeCmd w = .pushk ch ∧ w = cmdWord 0x4#4 ch) ∨
    (decodeCmd w = .nop ∧ w = 0x000#12) ∨ (decodeCmd w = .clrb ∧ w = 0x100#12) ∨ (decodeCmd w = .clrk ∧ w = 0x200#12) ∨
    (decodeCmd w = .enc ∧ w = 0x500#12) ∨ (decodeCmd w = .dec ∧ w = 0x600#12) ∨ (decodeCmd w = .ack ∧ w = 0x700#12) ∨
    ∃ ch, ch = cmdCh w ∧ (decodeCmd w = .reserved0 ch ∨ decodeCmd w = .reserved1 ch ∨ decodeCmd w = .reserved2 ch ∨
      decodeCmd w = .reserved5 ch ∨ decodeCmd w = .reserved6 ch ∨ decodeCmd w = .reserved7 ch ∨
      decodeCmd w = .reservedHi (cmdOp w) ch) := by
  have ops : ∀ op : BitVec 4, op = 0#4 ∨ op = 1#4 ∨ op = 2#4 ∨ op = 3#4 ∨ op = 4#4 ∨ op = 5#4 ∨ op = 6#4 ∨ op = 7#4 ∨
      (op ≠ 0#4 ∧ op ≠ 1#4 ∧ op ≠ 2#4 ∧ op ≠ 3#4 ∧ op ≠ 4#4 ∧ op ≠ 5#4 ∧ op ≠ 6#4 ∧ op ≠ 7#4) := by decide
  obtain ⟨op, ch, rfl⟩ : ∃ op ch, w = cmdWord op ch := ⟨_, _, (cmdWord_fields w).symm⟩
  by_cases hc : ch = 0x00#8
  · subst hc
    rcases ops op with rfl | rfl | rfl | rfl | rfl | rfl | rfl | rfl | h <;> simp [decodeCmd, *] <;> simp [cmdWord]
  · rcases ops op with rfl | rfl | rfl | rfl | rfl | rfl | rfl | rfl | h <;> simp [decodeCmd, *]

/-- No command word is refused (R84, R85). -/
@[simp] theorem decode_cmd (w : CmdWord) : decode (.cmd w) = .ok (decodeCmd w) := rfl

/-- The control word of a round decodes to its round step (R81). -/
theorem decode_busyWord_encrypt {r : BitVec 6} (h : roundOk r = true) :
    decode (.ctrl (busyWord .encrypt r)) = .ok (.roundstepEnc r) := by simp [decode, decodeCtrl, h]

theorem decode_busyWord_decrypt {r : BitVec 6} (h : roundOk r = true) :
    decode (.ctrl (busyWord .decrypt r)) = .ok (.roundstepDec r) := by simp [decode, decodeCtrl, h]

/-- The rows a round's control word matches (R81). -/
theorem rowsOf_busyWord_encrypt {r : BitVec 6} (h : roundOk r = true) : rowsOf (.ctrl (busyWord .encrypt r)) =
    [.roundstepEnc r, .mix .encrypt r, .fp r, .kp .encrypt r, .sb r, .encr r, .encrypt] := by
  simp [rowsOf, decode_busyWord_encrypt h]

theorem rowsOf_busyWord_decrypt {r : BitVec 6} (h : roundOk r = true) : rowsOf (.ctrl (busyWord .decrypt r)) =
    [.roundstepDec r, .mix .decrypt r, .fpi r, .kp .decrypt r, .sbi r, .decr r, .decrypt] := by
  simp [rowsOf, decode_busyWord_decrypt h]

end Sys2Proof
end

