-- ==== Sys2Proof/Laws/Memory.lean ====
section
/-! SUPPORT. The key store: a write and a read of one cell, reads of several cells, and the canonical form. -/
namespace Sys2Proof.Machine

@[simp] theorem read_nil (a : Nat) : Memory.read [] a = none := rfl

theorem read_write (m : Memory) (a a' : Nat) (b : Bit) :
    Memory.read (Memory.write m a b) a' = if a' = a then some b else Memory.read m a' := by
  induction m with
  | nil => simp [Memory.write, Memory.read, eq_comm]
  | cons c cs ih =>
    obtain ⟨x, y⟩ := c
    by_cases ha : a' = a
    · subst ha
      by_cases h1 : a' < x
      · simp [Memory.write, Memory.read, h1]
      · by_cases h2 : a' = x
        · simp [Memory.write, Memory.read, h2]
        · simp [Memory.write, Memory.read, h1, h2, Ne.symm h2, ih]
    · have ha' : ¬ a = a' := fun e => ha e.symm
      by_cases h1 : a < x
      · simp [Memory.write, Memory.read, h1, ha, ha']
      · by_cases h2 : a = x
        · simp [Memory.write, Memory.read, ← h2, ha, ha']
        · simp [Memory.write, Memory.read, h1, h2, ha, ih]

@[simp] theorem read_write_same (m : Memory) (a : Nat) (b : Bit) : Memory.read (Memory.write m a b) a = some b := by
  simp [read_write]

theorem read_write_ne {m : Memory} {a a' : Nat} {b : Bit} (h : a' ≠ a) :
    Memory.read (Memory.write m a b) a' = Memory.read m a' := by simp [read_write, h]

theorem write_wfFrom {m : Memory} {lo a : Nat} {b : Bit} (hm : Memory.wfFrom lo m = true) (hlo : lo ≤ a)
    (ha : a < 2520) : Memory.wfFrom lo (Memory.write m a b) = true := by
  induction m generalizing lo with
  | nil => simp [Memory.write, Memory.wfFrom, hlo, ha]
  | cons c cs ih =>
    obtain ⟨x, y⟩ := c
    simp only [Memory.wfFrom, Bool.and_eq_true, decide_eq_true_eq] at hm
    simp only [Memory.write]
    split_ifs with h1 h2
    · simp [Memory.wfFrom, hlo, ha, hm.1.2, hm.2]; omega
    · subst h2; simp [Memory.wfFrom, hlo, ha, hm.2]
    · simp [Memory.wfFrom, hm.1.1, hm.1.2, ih hm.2 (by omega)]

/-- A write inside the store keeps the canonical form. -/
theorem write_wf {m : Memory} {a : Nat} {b : Bit} (hm : Memory.wf m = true) (ha : a < 2520) :
    Memory.wf (Memory.write m a b) = true := write_wfFrom hm (Nat.zero_le a) ha

/-- The empty store, which reset leaves, is in canonical form. -/
theorem nil_wf : Memory.wf [] = true := rfl

/-- In canonical form a cell outside the store has no value. -/
theorem read_of_wfFrom {m : Memory} {lo a : Nat} (hm : Memory.wfFrom lo m = true) (h : a < lo ∨ 2520 ≤ a) :
    Memory.read m a = none := by
  induction m generalizing lo with
  | nil => rfl
  | cons c cs ih =>
    obtain ⟨x, y⟩ := c
    simp only [Memory.wfFrom, Bool.and_eq_true, decide_eq_true_eq, Config.KEY_CELLS] at hm
    have hx : x ≠ a := by omega
    simp only [Memory.read, if_neg hx]
    exact ih hm.2 (by omega)

/-- Everything `readCells` can do: if it answers v, each position of v is the content of its cell. -/
theorem readCells_ok {m : Memory} {addr n : Nat} {v : BitSeq n} (h : readCells m addr n = .ok v) :
    ∀ j, j < n → Memory.read m (addr + j) = some (pos v j) := by
  induction n with
  | zero => intro j hj; omega
  | succ n ih =>
    simp only [readCells] at h
    split at h
    · cases h
    next u hu =>
      split at h
      next b hb =>
        cases h
        intro j hj
        by_cases hjn : j < n
        · simpa [pos, BitVec.getMsbD_concat, hjn] using ih hu j hjn
        · obtain rfl : j = n := by omega
          simpa [pos, BitVec.getMsbD_concat] using hb
      · cases h

theorem readCells_total {m : Memory} {addr n : Nat} (h : ∀ j, j < n → (Memory.read m (addr + j)).isSome) :
    ∃ v, readCells m addr n = .ok v := by
  induction n with
  | zero => exact ⟨0#0, rfl⟩
  | succ n ih =>
    obtain ⟨u, hu⟩ := ih fun j hj => h j (by omega)
    obtain ⟨b, hb⟩ := Option.isSome_iff_exists.mp (h n (by omega))
    exact ⟨u.concat b, by simp [readCells, hu, hb]⟩

/-- `MemRead` answers v exactly when the cells lie in the store and hold v (R55). -/
theorem memRead_ok_iff {m : Memory} {addr n : Nat} {v : BitSeq n} :
    memRead m addr n = .ok v ↔ addr + n ≤ 2520 ∧ ∀ j, j < n → Memory.read m (addr + j) = some (pos v j) := by
  constructor
  · intro h
    unfold memRead at h
    split_ifs at h with hn
    exact ⟨hn, readCells_ok h⟩
  · rintro ⟨hn, hv⟩
    obtain ⟨u, hu⟩ := readCells_total (m := m) (addr := addr) (n := n) fun j hj => by simp [hv j hj]
    have : u = v := seq_ext fun j hj => by
      have := (readCells_ok hu j hj).symm.trans (hv j hj)
      exact Option.some.inj this
    simp [memRead, hn, hu, this]

/-- `MemRead` answers when the cells lie in the store and have been written. -/
theorem memRead_total {m : Memory} {addr n : Nat} (hn : addr + n ≤ 2520)
    (h : ∀ a, addr ≤ a → a < addr + n → (Memory.read m a).isSome) : ∃ v, memRead m addr n = .ok v := by
  obtain ⟨v, hv⟩ := readCells_total (m := m) (addr := addr) (n := n) fun j hj => h _ (by omega) (by omega)
  exact ⟨v, by simp [memRead, hn, hv]⟩

/-- A part of what `MemRead` answers is what it answers for that part. -/
theorem memRead_slice {m : Memory} {n a k : Nat} {K : BitSeq n} (h : memRead m 0 n = .ok K) (hk : a + k ≤ n) :
    memRead m a k = .ok (slice K a k) := by
  rw [memRead_ok_iff] at h ⊢
  refine ⟨by omega, fun j hj => ?_⟩
  rw [pos_slice K hj]
  simpa using h.2 (a + j) (by omega)

end Sys2Proof.Machine
end

