-- ==== Sys2Proof/Laws/State.lean ====
section
/-! SUPPORT. What each update of the state leaves in each field, one lemma per field per update. -/
namespace Sys2Proof.Machine

variable (s : State)

@[simp] theorem clearBlock_BLK : (clearBlock s).BLK = ZERO27 := rfl
@[simp] theorem clearBlock_BLEN : (clearBlock s).BLEN = 0#5 := rfl
@[simp] theorem clearBlock_BBAD : (clearBlock s).BBAD = false := rfl
@[simp] theorem clearBlock_KEY : (clearBlock s).KEY = s.KEY := rfl
@[simp] theorem clearBlock_KLEN : (clearBlock s).KLEN = s.KLEN := rfl
@[simp] theorem clearBlock_KBAD : (clearBlock s).KBAD = s.KBAD := rfl
@[simp] theorem clearBlock_ST : (clearBlock s).ST = s.ST := rfl
@[simp] theorem clearBlock_ERR : (clearBlock s).ERR = s.ERR := rfl
@[simp] theorem clearBlock_DIR : (clearBlock s).DIR = s.DIR := rfl
@[simp] theorem clearBlock_RND : (clearBlock s).RND = s.RND := rfl
@[simp] theorem clearBlock_inputs : (clearBlock s).inputs = s.inputs := rfl

@[simp] theorem clearKey_BLK : (clearKey s).BLK = s.BLK := rfl
@[simp] theorem clearKey_BLEN : (clearKey s).BLEN = s.BLEN := rfl
@[simp] theorem clearKey_BBAD : (clearKey s).BBAD = s.BBAD := rfl
@[simp] theorem clearKey_KEY : (clearKey s).KEY = s.KEY := rfl
@[simp] theorem clearKey_KLEN : (clearKey s).KLEN = 0#12 := rfl
@[simp] theorem clearKey_KBAD : (clearKey s).KBAD = false := rfl
@[simp] theorem clearKey_ST : (clearKey s).ST = s.ST := rfl
@[simp] theorem clearKey_ERR : (clearKey s).ERR = s.ERR := rfl
@[simp] theorem clearKey_DIR : (clearKey s).DIR = s.DIR := rfl
@[simp] theorem clearKey_RND : (clearKey s).RND = s.RND := rfl
@[simp] theorem clearKey_inputs : (clearKey s).inputs = s.inputs := rfl

@[simp] theorem raise_BLK (e : ErrCode) : (raise e s).BLK = s.BLK := rfl
@[simp] theorem raise_BLEN (e : ErrCode) : (raise e s).BLEN = s.BLEN := rfl
@[simp] theorem raise_BBAD (e : ErrCode) : (raise e s).BBAD = s.BBAD := rfl
@[simp] theorem raise_KEY (e : ErrCode) : (raise e s).KEY = s.KEY := rfl
@[simp] theorem raise_KLEN (e : ErrCode) : (raise e s).KLEN = s.KLEN := rfl
@[simp] theorem raise_KBAD (e : ErrCode) : (raise e s).KBAD = s.KBAD := rfl
@[simp] theorem raise_ST (e : ErrCode) : (raise e s).ST = .error := rfl
@[simp] theorem raise_ERR (e : ErrCode) : (raise e s).ERR = e := rfl
@[simp] theorem raise_DIR (e : ErrCode) : (raise e s).DIR = s.DIR := rfl
@[simp] theorem raise_RND (e : ErrCode) : (raise e s).RND = s.RND := rfl
@[simp] theorem raise_inputs (e : ErrCode) : (raise e s).inputs = s.inputs := rfl

@[simp] theorem returnFromError_BLK : (returnFromError s).BLK = s.BLK := rfl
@[simp] theorem returnFromError_BLEN : (returnFromError s).BLEN = s.BLEN := rfl
@[simp] theorem returnFromError_BBAD : (returnFromError s).BBAD = s.BBAD := rfl
@[simp] theorem returnFromError_KEY : (returnFromError s).KEY = s.KEY := rfl
@[simp] theorem returnFromError_KLEN : (returnFromError s).KLEN = s.KLEN := rfl
@[simp] theorem returnFromError_KBAD : (returnFromError s).KBAD = s.KBAD := rfl
@[simp] theorem returnFromError_ST : (returnFromError s).ST = .idle := rfl
@[simp] theorem returnFromError_ERR : (returnFromError s).ERR = .none := rfl
@[simp] theorem returnFromError_DIR : (returnFromError s).DIR = s.DIR := rfl
@[simp] theorem returnFromError_RND : (returnFromError s).RND = s.RND := rfl
@[simp] theorem returnFromError_inputs : (returnFromError s).inputs = s.inputs := rfl

@[simp] theorem start_BLK (d : Direction) : (start d s).BLK = s.BLK := rfl
@[simp] theorem start_BLEN (d : Direction) : (start d s).BLEN = s.BLEN := rfl
@[simp] theorem start_BBAD (d : Direction) : (start d s).BBAD = s.BBAD := rfl
@[simp] theorem start_KEY (d : Direction) : (start d s).KEY = s.KEY := rfl
@[simp] theorem start_KLEN (d : Direction) : (start d s).KLEN = s.KLEN := rfl
@[simp] theorem start_KBAD (d : Direction) : (start d s).KBAD = s.KBAD := rfl
@[simp] theorem start_ST (d : Direction) : (start d s).ST = .busy := rfl
@[simp] theorem start_ERR (d : Direction) : (start d s).ERR = s.ERR := rfl
@[simp] theorem start_DIR (d : Direction) : (start d s).DIR = d := rfl
@[simp] theorem start_RND (d : Direction) : (start d s).RND = firstRound d := rfl
@[simp] theorem start_inputs (d : Direction) : (start d s).inputs = s.inputs := rfl

@[simp] theorem releaseResult_BLK : (releaseResult s).BLK = ZERO27 := rfl
@[simp] theorem releaseResult_BLEN : (releaseResult s).BLEN = 0#5 := rfl
@[simp] theorem releaseResult_BBAD : (releaseResult s).BBAD = false := rfl
@[simp] theorem releaseResult_KEY : (releaseResult s).KEY = s.KEY := rfl
@[simp] theorem releaseResult_KLEN : (releaseResult s).KLEN = s.KLEN := rfl
@[simp] theorem releaseResult_KBAD : (releaseResult s).KBAD = s.KBAD := rfl
@[simp] theorem releaseResult_ST : (releaseResult s).ST = .idle := rfl
@[simp] theorem releaseResult_ERR : (releaseResult s).ERR = s.ERR := rfl
@[simp] theorem releaseResult_DIR : (releaseResult s).DIR = s.DIR := rfl
@[simp] theorem releaseResult_RND : (releaseResult s).RND = s.RND := rfl
@[simp] theorem releaseResult_inputs : (releaseResult s).inputs = s.inputs := rfl

@[simp] theorem setBlk_BLK (B : Block) : (setBlk B s).BLK = B := rfl
@[simp] theorem setBlk_BLEN (B : Block) : (setBlk B s).BLEN = s.BLEN := rfl
@[simp] theorem setBlk_BBAD (B : Block) : (setBlk B s).BBAD = s.BBAD := rfl
@[simp] theorem setBlk_KEY (B : Block) : (setBlk B s).KEY = s.KEY := rfl
@[simp] theorem setBlk_KLEN (B : Block) : (setBlk B s).KLEN = s.KLEN := rfl
@[simp] theorem setBlk_KBAD (B : Block) : (setBlk B s).KBAD = s.KBAD := rfl
@[simp] theorem setBlk_ST (B : Block) : (setBlk B s).ST = s.ST := rfl
@[simp] theorem setBlk_ERR (B : Block) : (setBlk B s).ERR = s.ERR := rfl
@[simp] theorem setBlk_DIR (B : Block) : (setBlk B s).DIR = s.DIR := rfl
@[simp] theorem setBlk_RND (B : Block) : (setBlk B s).RND = s.RND := rfl
@[simp] theorem setBlk_inputs (B : Block) : (setBlk B s).inputs = s.inputs := rfl

@[simp] theorem consume_BLK : (consume s).BLK = s.BLK := rfl
@[simp] theorem consume_BLEN : (consume s).BLEN = s.BLEN := rfl
@[simp] theorem consume_BBAD : (consume s).BBAD = s.BBAD := rfl
@[simp] theorem consume_KEY : (consume s).KEY = s.KEY := rfl
@[simp] theorem consume_KLEN : (consume s).KLEN = s.KLEN := rfl
@[simp] theorem consume_KBAD : (consume s).KBAD = s.KBAD := rfl
@[simp] theorem consume_ST : (consume s).ST = s.ST := rfl
@[simp] theorem consume_ERR : (consume s).ERR = s.ERR := rfl
@[simp] theorem consume_DIR : (consume s).DIR = s.DIR := rfl
@[simp] theorem consume_RND : (consume s).RND = s.RND := rfl
@[simp] theorem consume_inputs : (consume s).inputs = s.inputs.tail := rfl

@[simp] theorem presentWord_BLK (w : CmdWord) : (presentWord s w).BLK = s.BLK := rfl
@[simp] theorem presentWord_BLEN (w : CmdWord) : (presentWord s w).BLEN = s.BLEN := rfl
@[simp] theorem presentWord_BBAD (w : CmdWord) : (presentWord s w).BBAD = s.BBAD := rfl
@[simp] theorem presentWord_KEY (w : CmdWord) : (presentWord s w).KEY = s.KEY := rfl
@[simp] theorem presentWord_KLEN (w : CmdWord) : (presentWord s w).KLEN = s.KLEN := rfl
@[simp] theorem presentWord_KBAD (w : CmdWord) : (presentWord s w).KBAD = s.KBAD := rfl
@[simp] theorem presentWord_ST (w : CmdWord) : (presentWord s w).ST = s.ST := rfl
@[simp] theorem presentWord_ERR (w : CmdWord) : (presentWord s w).ERR = s.ERR := rfl
@[simp] theorem presentWord_DIR (w : CmdWord) : (presentWord s w).DIR = s.DIR := rfl
@[simp] theorem presentWord_RND (w : CmdWord) : (presentWord s w).RND = s.RND := rfl
@[simp] theorem presentWord_inputs (w : CmdWord) : (presentWord s w).inputs = ⟨false, w⟩ :: s.inputs.tail := rfl

@[simp] theorem resetState_BLK : (resetState s).BLK = ZERO27 := rfl
@[simp] theorem resetState_BLEN : (resetState s).BLEN = 0#5 := rfl
@[simp] theorem resetState_BBAD : (resetState s).BBAD = false := rfl
@[simp] theorem resetState_KEY : (resetState s).KEY = s.KEY := rfl
@[simp] theorem resetState_KLEN : (resetState s).KLEN = 0#12 := rfl
@[simp] theorem resetState_KBAD : (resetState s).KBAD = false := rfl
@[simp] theorem resetState_ST : (resetState s).ST = .idle := rfl
@[simp] theorem resetState_ERR : (resetState s).ERR = .none := rfl
@[simp] theorem resetState_DIR : (resetState s).DIR = .encrypt := rfl
@[simp] theorem resetState_RND : (resetState s).RND = 0#6 := rfl
@[simp] theorem resetState_inputs : (resetState s).inputs = s.inputs := rfl

@[simp] theorem withInputs_BLK (ins : List HostInput) : (withInputs s ins).BLK = s.BLK := rfl
@[simp] theorem withInputs_BLEN (ins : List HostInput) : (withInputs s ins).BLEN = s.BLEN := rfl
@[simp] theorem withInputs_BBAD (ins : List HostInput) : (withInputs s ins).BBAD = s.BBAD := rfl
@[simp] theorem withInputs_KEY (ins : List HostInput) : (withInputs s ins).KEY = s.KEY := rfl
@[simp] theorem withInputs_KLEN (ins : List HostInput) : (withInputs s ins).KLEN = s.KLEN := rfl
@[simp] theorem withInputs_KBAD (ins : List HostInput) : (withInputs s ins).KBAD = s.KBAD := rfl
@[simp] theorem withInputs_ST (ins : List HostInput) : (withInputs s ins).ST = s.ST := rfl
@[simp] theorem withInputs_ERR (ins : List HostInput) : (withInputs s ins).ERR = s.ERR := rfl
@[simp] theorem withInputs_DIR (ins : List HostInput) : (withInputs s ins).DIR = s.DIR := rfl
@[simp] theorem withInputs_RND (ins : List HostInput) : (withInputs s ins).RND = s.RND := rfl
@[simp] theorem withInputs_inputs (ins : List HostInput) : (withInputs s ins).inputs = ins := rfl

end Sys2Proof.Machine
end

