-- ==== Sys2Proof/Laws/Ops.lean ====
section
/-! SUPPORT. One lemma for each shared operation that says once everything it can do. -/
namespace Sys2Proof.Machine

/-! ### Commands accepted in IDLE only -/

theorem whenIdle_idle {s : State} {f : State → State} (h : s.ST = .idle) : whenIdle s f = f s := if_pos h

theorem whenIdle_dropped {s : State} {f : State → State} (h : s.ST ≠ .idle) : whenIdle s f = s := if_neg h

/-! ### The pushes -/

/-- The character stored and the flag kept or set, by the three kinds of character (R83, R163). -/
theorem charBit_cases (ch : Character) :
    (ch = 0x30#8 ∧ charBit ch = some false) ∨ (ch = 0x31#8 ∧ charBit ch = some true) ∨
      (ch ≠ 0x30#8 ∧ ch ≠ 0x31#8 ∧ charBit ch = none) := by
  by_cases h0 : ch = 0x30#8
  · exact .inl ⟨h0, by simp [charBit, Config.CH0, h0]⟩
  · by_cases h1 : ch = 0x31#8
    · exact .inr (.inl ⟨h1, by simp [charBit, Config.CH0, Config.CH1, h1]⟩)
    · exact .inr (.inr ⟨h0, h1, by simp [charBit, Config.CH0, Config.CH1, h0, h1]⟩)

@[simp] theorem stickyBad_valid {bad : Bool} {ch : Character} {b : Bit} (h : charBit ch = some b) :
    stickyBad bad ch = bad := by simp [stickyBad, h]

@[simp] theorem stickyBad_invalid {bad : Bool} {ch : Character} (h : charBit ch = none) : stickyBad bad ch = true := by
  simp [stickyBad, h]

/-- Everything `appendBlock` can do (R163). -/
theorem appendBlock_cases (ch : Character) (s : State) :
    (s.BLEN.toNat < 27 ∧ appendBlock ch s =
      { s with BLK := setPos s.BLK s.BLEN.toNat (storedBit ch), BBAD := stickyBad s.BBAD ch, BLEN := s.BLEN + 1#5 }) ∨
    (s.BLEN = 27#5 ∧ appendBlock ch s = { s with BLEN := 28#5 }) ∨
    (28 ≤ s.BLEN.toNat ∧ appendBlock ch s = s) := by
  unfold appendBlock
  split_ifs with h1 h2
  · exact .inl ⟨h1, rfl⟩
  · exact .inr (.inl ⟨h2, rfl⟩)
  · refine .inr (.inr ⟨?_, rfl⟩)
    have : s.BLEN.toNat ≠ 27 := fun e => h2 (BitVec.eq_of_toNat_eq e)
    omega

/-- Everything `appendKey` can do (R164). -/
theorem appendKey_cases (ch : Character) (s : State) :
    (s.KLEN.toNat < 2520 ∧ appendKey ch s =
      { s with KEY := Memory.write s.KEY s.KLEN.toNat (storedBit ch), KBAD := stickyBad s.KBAD ch,
               KLEN := s.KLEN + 1#12 }) ∨
    (2520 ≤ s.KLEN.toNat ∧ appendKey ch s = s) := by
  unfold appendKey
  split_ifs with h
  · exact .inl ⟨h, rfl⟩
  · exact .inr ⟨Nat.not_lt.mp h, rfl⟩

/-! ### Validation and starts -/

theorem blockValid_iff {s : State} : blockValid s = true ↔ s.BLEN = 27#5 ∧ s.BBAD = false := by simp [blockValid]

theorem keyValid_iff {s : State} : keyValid s = true ↔ s.KLEN = 2520#12 ∧ s.KBAD = false := by simp [keyValid]

/-- Everything a start can do (R166, R167, R196). -/
theorem startOrRaise_cases (d : Direction) (s : State) :
    (blockValid s = false ∧ startOrRaise d s = raise .errBlock s) ∨
    (blockValid s = true ∧ keyValid s = false ∧ startOrRaise d s = raise .errKey s) ∨
    (blockValid s = true ∧ keyValid s = true ∧ startOrRaise d s = start d s) := by
  unfold startOrRaise
  cases hb : blockValid s <;> cases hk : keyValid s <;> simp

/-! ### Operations with key bits -/

/-- Everything `withKeyBits` can do when it answers a next state. -/
theorem withKeyBits_next {s t : State} {addr n : Nat} {f : BitSeq n → State} (h : withKeyBits s addr n f = .next t) :
    ∃ v, memRead s.KEY addr n = .ok v ∧ t = f v := by
  unfold withKeyBits at h
  split at h
  next v hv => cases h; exact ⟨v, hv, rfl⟩
  · cases h

theorem withKeyBits_ok {s : State} {addr n : Nat} {f : BitSeq n → State} {v : BitSeq n} (h : memRead s.KEY addr n = .ok v) :
    withKeyBits s addr n f = .next (f v) := by simp [withKeyBits, h]

/-- Everything `withRoundKey` can do when it answers a next state. -/
theorem withRoundKey_next {s t : State} {r : Nat} {f : BigKeyBits → SmallKeyBits → State}
    (h : withRoundKey s r f = .next t) :
    ∃ K27 K18, memRead s.KEY (45 * r) 27 = .ok K27 ∧ memRead s.KEY (45 * r + 27) 18 = .ok K18 ∧ t = f K27 K18 := by
  unfold withRoundKey at h
  split at h
  · cases h
  next K27 h27 =>
    obtain ⟨K18, h18, rfl⟩ := withKeyBits_next h
    exact ⟨K27, K18, h27, h18, rfl⟩

theorem withRoundKey_ok {s : State} {r : Nat} {f : BigKeyBits → SmallKeyBits → State} {K27 : BigKeyBits}
    {K18 : SmallKeyBits} (h27 : memRead s.KEY (45 * r) 27 = .ok K27) (h18 : memRead s.KEY (45 * r + 27) 18 = .ok K18) :
    withRoundKey s r f = .next (f K27 K18) := by
  simp only [withRoundKey, bigKeyAddr, h27]
  exact withKeyBits_ok h18

/-- The round key of a written round window can be read. -/
theorem withRoundKey_total {s : State} {r : Nat} (hr : r < 56) (f : BigKeyBits → SmallKeyBits → State)
    (h : keyWritten s.KEY (45 * r) 45) :
    ∃ K27 K18, memRead s.KEY (45 * r) 27 = .ok K27 ∧ memRead s.KEY (45 * r + 27) 18 = .ok K18 ∧
      withRoundKey s r f = .next (f K27 K18) := by
  obtain ⟨K27, h27⟩ := memRead_total (m := s.KEY) (addr := 45 * r) (n := 27) (by omega) fun a _ _ => h a (by omega) (by omega)
  obtain ⟨K18, h18⟩ :=
    memRead_total (m := s.KEY) (addr := 45 * r + 27) (n := 18) (by omega) fun a _ _ => h a (by omega) (by omega)
  exact ⟨K27, K18, h27, h18, withRoundKey_ok h27 h18⟩

/-! ### The end of a round step -/

/-- Everything an encryption round does to `ST` and `RND` (R146, R147). -/
theorem advanceEnc_cases (r : BitVec 6) (s : State) :
    (r = 55#6 ∧ advanceEnc r s = { s with ST := .done }) ∨ (r ≠ 55#6 ∧ advanceEnc r s = { s with RND := r + 1#6 }) := by
  unfold advanceEnc
  split_ifs with h
  · exact .inl ⟨h, rfl⟩
  · exact .inr ⟨h, rfl⟩

/-- Everything a decryption round does to `ST` and `RND` (R146, R147). -/
theorem advanceDec_cases (r : BitVec 6) (s : State) :
    (r = 0#6 ∧ advanceDec r s = { s with ST := .done }) ∨ (r ≠ 0#6 ∧ advanceDec r s = { s with RND := r - 1#6 }) := by
  unfold advanceDec
  split_ifs with h
  · exact .inl ⟨h, rfl⟩
  · exact .inr ⟨h, rfl⟩

end Sys2Proof.Machine
end

