-- ==== Sys2Proof/Laws/PerInstr.lean ====
section
/-! SUPPORT. The family `RoundTrip`: every word an instruction is encoded as matches the instruction's row. -/
namespace Sys2Proof.Laws

/-- A well-formed instruction has a word, and each of its words matches its row of the opcode table. -/
def RoundTrip.Statement (i : Instr) : Prop := i.wf = true → encode i ≠ [] ∧ ∀ c ∈ encode i, i ∈ rowsOf c

namespace RoundTrip

theorem nop : Statement .nop := fun _ => by decide
theorem clrb : Statement .clrb := fun _ => by decide
theorem clrk : Statement .clrk := fun _ => by decide
theorem pushb (ch : Character) : Statement (.pushb ch) := fun _ => by simp [encode, rowsOf, decodeCmd]
theorem pushk (ch : Character) : Statement (.pushk ch) := fun _ => by simp [encode, rowsOf, decodeCmd]
theorem enc : Statement .enc := fun _ => by decide
theorem dec : Statement .dec := fun _ => by decide
theorem ack : Statement .ack := fun _ => by decide
theorem reserved0 (ch : Character) : Statement (.reserved0 ch) := fun h => by
  have h : ch ≠ 0x00#8 := by simpa [Instr.wf, reservedChar] using h
  simp [encode, rowsOf, decodeCmd, h]
theorem reserved1 (ch : Character) : Statement (.reserved1 ch) := fun h => by
  have h : ch ≠ 0x00#8 := by simpa [Instr.wf, reservedChar] using h
  simp [encode, rowsOf, decodeCmd, h]
theorem reserved2 (ch : Character) : Statement (.reserved2 ch) := fun h => by
  have h : ch ≠ 0x00#8 := by simpa [Instr.wf, reservedChar] using h
  simp [encode, rowsOf, decodeCmd, h]
theorem reserved5 (ch : Character) : Statement (.reserved5 ch) := fun h => by
  have h : ch ≠ 0x00#8 := by simpa [Instr.wf, reservedChar] using h
  simp [encode, rowsOf, decodeCmd, h]
theorem reserved6 (ch : Character) : Statement (.reserved6 ch) := fun h => by
  have h : ch ≠ 0x00#8 := by simpa [Instr.wf, reservedChar] using h
  simp [encode, rowsOf, decodeCmd, h]
theorem reserved7 (ch : Character) : Statement (.reserved7 ch) := fun h => by
  have h : ch ≠ 0x00#8 := by simpa [Instr.wf, reservedChar] using h
  simp [encode, rowsOf, decodeCmd, h]
theorem reservedHi (op : BitVec 4) (ch : Character) : Statement (.reservedHi op ch) := fun h => by
  have h : 8 ≤ op.toNat := by simpa [Instr.wf, reservedOp] using h
  have ne : ∀ k : BitVec 4, k.toNat < 8 → op ≠ k := by rintro k hk rfl; omega
  simp [encode, rowsOf, decodeCmd, ne 0#4 (by decide), ne 1#4 (by decide), ne 2#4 (by decide), ne 3#4 (by decide),
    ne 4#4 (by decide), ne 5#4 (by decide), ne 6#4 (by decide), ne 7#4 (by decide)]
theorem selId (g : BitVec 4) : Statement (.selId g) := fun h => by
  have h : groupOk g = true := h
  simp [encode, rowsOf, decode, decodeKsel, h]
theorem selSwap01 (g : BitVec 4) : Statement (.selSwap01 g) := fun h => by
  have h : groupOk g = true := h
  simp [encode, rowsOf, decode, decodeKsel, h]
theorem selSwap12 (g : BitVec 4) : Statement (.selSwap12 g) := fun h => by
  have h : groupOk g = true := h
  simp [encode, rowsOf, decode, decodeKsel, h]
theorem selRev (g : BitVec 4) : Statement (.selRev g) := fun h => by
  have h : groupOk g = true := h
  simp [encode, rowsOf, decode, decodeKsel, h]
theorem roundstepEnc (r : BitVec 6) : Statement (.roundstepEnc r) := fun h => by
  simp [encode, rowsOf_busyWord_encrypt (r := r) h]
theorem roundstepDec (r : BitVec 6) : Statement (.roundstepDec r) := fun h => by
  simp [encode, rowsOf_busyWord_decrypt (r := r) h]
theorem mix (d : Direction) (r : BitVec 6) : Statement (.mix d r) := fun h => by
  cases d
  · simp [encode, rowsOf_busyWord_encrypt (r := r) h]
  · simp [encode, rowsOf_busyWord_decrypt (r := r) h]
theorem fp (r : BitVec 6) : Statement (.fp r) := fun h => by simp [encode, rowsOf_busyWord_encrypt (r := r) h]
theorem fpi (r : BitVec 6) : Statement (.fpi r) := fun h => by simp [encode, rowsOf_busyWord_decrypt (r := r) h]
theorem kp (d : Direction) (r : BitVec 6) : Statement (.kp d r) := fun h => by
  cases d
  · simp [encode, rowsOf_busyWord_encrypt (r := r) h]
  · simp [encode, rowsOf_busyWord_decrypt (r := r) h]
theorem sb (r : BitVec 6) : Statement (.sb r) := fun h => by simp [encode, rowsOf_busyWord_encrypt (r := r) h]
theorem sbi (r : BitVec 6) : Statement (.sbi r) := fun h => by simp [encode, rowsOf_busyWord_decrypt (r := r) h]
theorem encr (r : BitVec 6) : Statement (.encr r) := fun h => by simp [encode, rowsOf_busyWord_encrypt (r := r) h]
theorem decr (r : BitVec 6) : Statement (.decr r) := fun h => by simp [encode, rowsOf_busyWord_decrypt (r := r) h]
theorem encrypt : Statement .encrypt := fun _ => by
  refine ⟨by simp [encode, operationWords], fun c hc => ?_⟩
  obtain ⟨k, hk, rfl⟩ : ∃ k < 56, .ctrl (busyWord .encrypt (BitVec.ofNat 6 k)) = c := by
    simpa [encode, operationWords] using hc
  have hr : roundOk (BitVec.ofNat 6 k) = true := by simp [roundOk]; omega
  simp [rowsOf_busyWord_encrypt hr]
theorem decrypt : Statement .decrypt := fun _ => by
  refine ⟨by simp [encode, operationWords], fun c hc => ?_⟩
  obtain ⟨k, hk, rfl⟩ : ∃ k < 56, .ctrl (busyWord .decrypt (BitVec.ofNat 6 (55 - k))) = c := by
    simpa [encode, operationWords] using hc
  have hr : roundOk (BitVec.ofNat 6 (55 - k)) = true := by simp [roundOk]; omega
  simp [rowsOf_busyWord_decrypt hr]

end RoundTrip

end Sys2Proof.Laws
end

