-- ==== Sys2Proof/Laws/Step.lean ====
section
/-! SUPPORT. What one step can do. -/
namespace Sys2Proof.Machine

/-- The control state of a BUSY engine, as the encoder writes it (R81). -/
theorem ctrlWord_busy {s : State} (h : s.ST = .busy) : ctrlWord s = busyWord s.DIR s.RND := by
  simp [ctrlWord, busyWord, h, Ctl.code]

theorem fetch_busy {s : State} (h : s.ST = .busy) : fetch s = .ctrl (busyWord s.DIR s.RND) := by
  simp [fetch, h, ctrlWord_busy h]

theorem fetch_host {s : State} (h : s.ST ≠ .busy) : fetch s = .cmd (sampled s).cmd := by simp [fetch, h]

/-- Everything a step that answers a next state can do: a reset step, or one instruction. -/
theorem step_next_cases {s t : State} (h : step s = .next t) :
    ((sampled s).rst = true ∧ t = resetState (consume s)) ∨
    ((sampled s).rst = false ∧ ∃ i, decode (fetch s) = .ok i ∧ exec i (consume s) = .next t) := by
  unfold step at h
  split at h
  next hr => cases h; exact .inl ⟨hr, rfl⟩
  next hr =>
    split at h
    next i hi => exact .inr ⟨by simpa using hr, i, hi, h⟩
    · cases h

theorem sampled_withInputs_cons (s : State) (h : HostInput) (hs : List HostInput) : sampled (withInputs s (h :: hs)) = h :=
  rfl

theorem sampled_withInputs_nil (s : State) : sampled (withInputs s []) = idleInput := rfl

@[simp] theorem consume_withInputs (s : State) (ins : List HostInput) : consume (withInputs s ins) = withInputs s ins.tail :=
  rfl

/-! ### Runs -/

@[simp] theorem run_zero (s : State) : run 0 s = .next s := rfl

/-- A run begins with its first step. -/
theorem run_succ {s t : State} (k : Nat) (h : step s = .next t) : run (k + 1) s = run k t := by
  have h' : Sys2Proof.core.step s = .next t := h
  simp only [run, Host.Core.run, h']
  rfl

/-- A run of at least one step that answers a state has a first step that does. -/
theorem run_succ_next {s t : State} {k : Nat} (h : run (k + 1) s = .next t) :
    ∃ u, step s = .next u ∧ run k u = .next t := by
  cases hs : step s with
  | next u => exact ⟨u, rfl, (run_succ k hs).symm.trans h⟩
  | fault r =>
    have h' : Sys2Proof.core.step s = .fault r := hs
    simp only [run, Host.Core.run, h'] at h
    cases h
  | refused r =>
    have h' : Sys2Proof.core.step s = .refused r := hs
    simp only [run, Host.Core.run, h'] at h
    cases h

/-- A run of j + k steps is a run of k steps after one of j. -/
theorem run_add {s t : State} {j : Nat} (k : Nat) (h : run j s = .next t) : run (j + k) s = run k t := by
  induction j generalizing s with
  | zero => cases h; rw [Nat.zero_add]
  | succ j ih =>
    obtain ⟨u, hu, hr⟩ := run_succ_next h
    rw [Nat.succ_add, run_succ _ hu, ih hr]

/-! ### The commands -/

/-- Everything a command word's instruction can do to a state, with the word that does it (R160 to R169). -/
theorem exec_command_cases {w : CmdWord} {s t : State} (h : exec (decodeCmd w) s = .next t) :
    t = s ∨
    (s.ST = .idle ∧ w = 0x100#12 ∧ t = clearBlock s) ∨
    (s.ST = .idle ∧ w = 0x200#12 ∧ t = clearKey s) ∨
    (s.ST = .idle ∧ ∃ ch, w = cmdWord 0x3#4 ch ∧ t = appendBlock ch s) ∨
    (s.ST = .idle ∧ ∃ ch, w = cmdWord 0x4#4 ch ∧ t = appendKey ch s) ∨
    (s.ST = .idle ∧ w = 0x500#12 ∧ t = startOrRaise .encrypt s) ∨
    (s.ST = .idle ∧ w = 0x600#12 ∧ t = startOrRaise .decrypt s) ∨
    (s.ST = .done ∧ w = 0x700#12 ∧ t = releaseResult s) ∨
    (s.ST = .error ∧ w = 0x700#12 ∧ t = returnFromError s) ∨
    (s.ST = .idle ∧ reservedRow (decodeCmd w) = true ∧ t = raise .errCmd s) := by
  have gate : ∀ {f : State → State} {u : State}, Host.Outcome.next (φ := Fault) (ρ := Refusal) (whenIdle s f) = .next u →
      u = s ∨ s.ST = .idle ∧ u = f s := by
    intro f u hu
    cases hu
    by_cases hs : s.ST = .idle
    · exact .inr ⟨hs, whenIdle_idle hs⟩
    · exact .inl (whenIdle_dropped hs)
  rcases decodeCmd_cases w with ⟨ch, e, hw⟩ | ⟨ch, e, hw⟩ | ⟨e, hw⟩ | ⟨e, hw⟩ | ⟨e, hw⟩ | ⟨e, hw⟩ | ⟨e, hw⟩ | ⟨e, hw⟩ |
    ⟨ch, -, e⟩
  · rw [e] at h; rcases gate h with h | ⟨hs, h⟩
    · exact .inl h
    · exact .inr (.inr (.inr (.inl ⟨hs, ch, hw, h⟩)))
  · rw [e] at h; rcases gate h with h | ⟨hs, h⟩
    · exact .inl h
    · exact .inr (.inr (.inr (.inr (.inl ⟨hs, ch, hw, h⟩))))
  · rw [e] at h; cases h; exact .inl rfl
  · rw [e] at h; rcases gate h with h | ⟨hs, h⟩
    · exact .inl h
    · exact .inr (.inl ⟨hs, hw, h⟩)
  · rw [e] at h; rcases gate h with h | ⟨hs, h⟩
    · exact .inl h
    · exact .inr (.inr (.inl ⟨hs, hw, h⟩))
  · rw [e] at h; rcases gate h with h | ⟨hs, h⟩
    · exact .inl h
    · exact .inr (.inr (.inr (.inr (.inr (.inl ⟨hs, hw, h⟩)))))
  · rw [e] at h; rcases gate h with h | ⟨hs, h⟩
    · exact .inl h
    · exact .inr (.inr (.inr (.inr (.inr (.inr (.inl ⟨hs, hw, h⟩))))))
  · rw [e, exec, execAck] at h
    cases hs : s.ST <;> rw [hs] at h <;> cases h
    · exact .inl rfl
    · exact .inl rfl
    · exact .inr (.inr (.inr (.inr (.inr (.inr (.inr (.inl ⟨rfl, hw, rfl⟩)))))))
    · exact .inr (.inr (.inr (.inr (.inr (.inr (.inr (.inr (.inl ⟨rfl, hw, rfl⟩))))))))
  · have hr : reservedRow (decodeCmd w) = true := by rcases e with e | e | e | e | e | e | e <;> rw [e] <;> rfl
    have h' : Host.Outcome.next (φ := Fault) (ρ := Refusal) (whenIdle s (raise .errCmd)) = .next t := by
      rcases e with e | e | e | e | e | e | e <;> rw [e] at h <;> exact h
    rcases gate h' with h | ⟨hs, h⟩
    · exact .inl h
    · exact .inr (.inr (.inr (.inr (.inr (.inr (.inr (.inr (.inr ⟨hs, hr, h⟩))))))))

end Sys2Proof.Machine
end

