-- ==== Sys2Proof/Tests/Slice0.lean ====
section
/-! SUPPORT. Tests. Expected values come from the encodings of 30_encoding.md and the vectors of 95_test_vectors.md,
whose section is named; the last part shows, for every statement with hypotheses, states that meet them. -/
namespace Sys2Proof.Tests

open Sys2Proof.Machine

/-! ### Well-formedness: an ill-formed term for each check -/

theorem test_wf_reserved_without_char : (Instr.reserved0 0x00#8).wf = false ∧ (Instr.reserved7 0x00#8).wf = false := by
  decide
theorem test_wf_reservedHi_low_op : (Instr.reservedHi 7#4 0x01#8).wf = false := by decide
theorem test_wf_tenth_group : (Instr.selRev 9#4).wf = false := by decide
theorem test_wf_round_56 : (Instr.roundstepEnc 56#6).wf = false ∧ (Instr.mix .decrypt 63#6).wf = false := by decide

/-! ### Decoding: a word written out from the spec's encoding for every constructor (R82, R87, R92, R81) -/

theorem test_decode_nop : decodeTableWord 16 0b000000000000 = some .nop := by decide
theorem test_decode_clrb : decodeTableWord 16 0b000100000000 = some .clrb := by decide
theorem test_decode_clrk : decodeTableWord 16 0b001000000000 = some .clrk := by decide
theorem test_decode_pushb : decodeTableWord 16 0b001100001010 = some (.pushb 0x0A#8) := by decide
theorem test_decode_pushk : decodeTableWord 16 0b010000110001 = some (.pushk 0x31#8) := by decide
theorem test_decode_enc : decodeTableWord 16 0b010100000000 = some .enc := by decide
theorem test_decode_dec : decodeTableWord 16 0b011000000000 = some .dec := by decide
theorem test_decode_ack : decodeTableWord 16 0b011100000000 = some .ack := by decide
theorem test_decode_reserved0 : decodeTableWord 16 0b000000000001 = some (.reserved0 0x01#8) := by decide
theorem test_decode_reserved1 : decodeTableWord 16 0b000110000000 = some (.reserved1 0x80#8) := by decide
theorem test_decode_reserved2 : decodeTableWord 16 0b001011111111 = some (.reserved2 0xFF#8) := by decide
theorem test_decode_reserved5 : decodeTableWord 16 0b010100000001 = some (.reserved5 0x01#8) := by decide
theorem test_decode_reserved6 : decodeTableWord 16 0b011000010000 = some (.reserved6 0x10#8) := by decide
theorem test_decode_reserved7 : decodeTableWord 16 0b011100110000 = some (.reserved7 0x30#8) := by decide
theorem test_decode_reservedHi : decodeTableWord 16 0b100000000000 = some (.reservedHi 8#4 0x00#8) ∧
    decodeTableWord 16 0b111111111111 = some (.reservedHi 15#4 0xFF#8) := by decide
theorem test_decode_no_word : decodeTableWord 16 0x1000 = none := by decide
theorem test_decode_selId : decode (.ksel 0#4 0b00#2) = .ok (.selId 0#4) := by rfl
theorem test_decode_selSwap01 : decode (.ksel 3#4 0b01#2) = .ok (.selSwap01 3#4) := by rfl
theorem test_decode_selSwap12 : decode (.ksel 8#4 0b10#2) = .ok (.selSwap12 8#4) := by rfl
theorem test_decode_selRev : decode (.ksel 8#4 0b11#2) = .ok (.selRev 8#4) := by rfl
theorem test_decode_no_group : decode (.ksel 9#4 0b11#2) = .error (.noSuchGroup 9#4) := by rfl
theorem test_decode_roundstepEnc : decode (.ctrl 0b010110111#9) = .ok (.roundstepEnc 55#6) := by rfl
theorem test_decode_roundstepDec : decode (.ctrl 0b011000101#9) = .ok (.roundstepDec 5#6) := by rfl
theorem test_decode_not_busy : decode (.ctrl 0b100110111#9) = .error (.notBusy 0b100110111#9) := by rfl
theorem test_decode_no_round : decode (.ctrl 0b010111000#9) = .error (.noSuchRound 56#6) := by rfl
theorem test_rows_encrypt : rowsOf (.ctrl 0b010000111#9) = [.roundstepEnc 7#6, .mix .encrypt 7#6, .fp 7#6,
    .kp .encrypt 7#6, .sb 7#6, .encr 7#6, .encrypt] := by decide
theorem test_rows_decrypt : rowsOf (.ctrl 0b011000111#9) = [.roundstepDec 7#6, .mix .decrypt 7#6, .fpi 7#6,
    .kp .decrypt 7#6, .sbi 7#6, .decr 7#6, .decrypt] := by decide

/-! ### Helpers -/

/-- The Block `PA` of 95_test_vectors.md. -/
abbrev PA : Block := 0b110100101100011110000101101#27

/-- n key cells from `lo` up, cell a holding `f a`. -/
def cells (f : Nat → Bit) : Nat → Nat → Memory
  | _, 0 => []
  | lo, n + 1 => (lo, f lo) :: cells f (lo + 1) n

/-- Key `K3` of 95_test_vectors.md: a bit is 1 exactly when its index is divisible by 3. -/
def k3 (a : Nat) : Bit := a % 3 == 0
def K3 : BitSeq 2520 := ofPos 2520 k3

/-- The round-0 window with `KA27` and `KA18` of 95_test_vectors.md, and nothing else. -/
def windowKA : Memory :=
  cells (fun a => pos (0b011011100010101111001000110#27 ++ 0b000110110001101100#18 : BitSeq 45) a) 0 45

/-- `PA` in `BLK`, `windowKA` in the key store, IDLE. -/
def bench : State := { State.reset with BLK := PA, BLEN := 27#5, KEY := windowKA }

/-- All of `K3` loaded, and `PA`. -/
def loaded : State := { State.reset with BLK := PA, BLEN := 27#5, KEY := cells k3 0 2520, KLEN := 2520#12 }

/-- An operation in progress with round r next, its window alone in the key store. -/
def busyAt (d : Direction) (r : BitVec 6) : State :=
  { State.reset with BLK := PA, BLEN := 27#5, KEY := cells k3 (45 * r.toNat) 45, KLEN := 2520#12, ST := .busy, DIR := d, RND := r }

/-- A finished operation. -/
def doneWith (B : Block) : State := { State.reset with BLK := B, BLEN := 27#5, KLEN := 2520#12, ST := .done, RND := 55#6 }

/-- The ERROR state after a key of 2519 characters. -/
def shortKey : State := { State.reset with BLK := PA, BLEN := 27#5, KLEN := 2519#12, ST := .error, ERR := .errKey }

def nextOf : Host.Outcome State Fault Refusal → Option State
  | .next t => some t
  | .fault _ => none
  | .refused _ => none

/-- The state after one step that samples the word w. -/
def after (s : State) (w : Nat) : Option State := nextOf (step (s.withFetchWord 16 w))

/-- What a function row leaves in `BLK` on the bench. -/
def blkAfter (i : Instr) : Option Block := (nextOf (exec i bench)).map (·.BLK)

/-! ### Single commands (section 8) -/

theorem test_nop : after loaded 0x000 = some loaded := by rfl
theorem test_clrb : (after { State.reset with BLK := PA, BLEN := 28#5, BBAD := true } 0x100).map
    (fun t => (t.BLK, t.BLEN, t.BBAD)) = some (ZERO27, 0#5, false) := by decide
theorem test_clrk : (after { State.reset with KLEN := 2520#12, KBAD := true, KEY := [(3, true)] } 0x200).map
    (fun t => (t.KLEN, t.KBAD, t.KEY)) = some (0#12, false, [(3, true)]) := by decide
theorem test_pushb_first : (after State.reset 0x331).map (fun t => (t.BLK, t.BLEN)) =
    some (0b100000000000000000000000000#27, 1#5) := by decide
theorem test_pushb_invalid_27th : (after { State.reset with BLK := 0b110100101100011110000101101#27, BLEN := 26#5 } 0x30A).map
    (fun t => (t.BLK, t.BLEN, t.BBAD)) = some (0b110100101100011110000101100#27, 27#5, true) := by decide
theorem test_pushk_first : (after State.reset 0x431).map (fun t => (t.KEY, t.KLEN)) = some ([(0, true)], 1#12) := by
  decide
theorem test_pushk_invalid : (after { State.reset with KLEN := 100#12 } 0x478).map
    (fun t => (t.KEY, t.KLEN, t.KBAD)) = some ([(100, false)], 101#12, true) := by decide
theorem test_enc_block_reported_first : (after { State.reset with BLEN := 26#5, KLEN := 2519#12 } 0x500).map
    (fun t => (t.ST, t.ERR)) = some (.error, .errBlock) := by decide
theorem test_enc_starts : (nextOf (exec .enc loaded)).map (fun t => (t.ST, t.DIR, t.RND)) =
    some (.busy, .encrypt, 0#6) := by decide
theorem test_dec_key_error : (after { State.reset with BLEN := 27#5 } 0x600).map (fun t => (t.ST, t.ERR)) =
    some (.error, .errKey) := by decide
theorem test_dec_starts : (nextOf (exec .dec loaded)).map (fun t => (t.ST, t.DIR, t.RND)) =
    some (.busy, .decrypt, 55#6) := by decide
theorem test_ack_done : (after (doneWith PA) 0x700).map (fun t => (t.ST, t.BLK, t.BLEN, t.KLEN)) =
    some (.idle, ZERO27, 0#5, 2520#12) := by decide
theorem test_ack_error : (after shortKey 0x700).map (fun t => (t.ST, t.ERR, t.BLEN, t.KLEN)) =
    some (.idle, .none, 27#5, 2519#12) := by decide
theorem test_reserved_low : ([0x001, 0x1FF, 0x210, 0x501, 0x680, 0x730] : List Nat).map
    (fun w => (after State.reset w).map fun t => (t.ST, t.ERR)) = List.replicate 6 (some (.error, .errCmd)) := by decide
theorem test_reserved_high : (after State.reset 0xFFF).map (fun t => (t.ST, t.ERR)) = some (.error, .errCmd) ∧
    after shortKey 0x800 = some shortKey := by decide
theorem test_busy_drops_command : (after (busyAt .encrypt 7#6) 0x200).map (fun t => (t.ST, t.RND, t.KLEN)) =
    some (.busy, 8#6, 2520#12) := by decide +kernel
theorem test_reset_step : (nextOf (step { busyAt .decrypt 7#6 with inputs := [⟨true, 0x500#12⟩] })).map
    (fun t => (t.ST, t.RND, t.BLK, t.KEY)) = some (.idle, 0#6, ZERO27, cells k3 315 45) := by decide +kernel

/-! ### Selectors and function rows (sections 2 to 6) -/

/-- Groups 0 and 4 of `PA` are 110 and 011 (section 4). -/
theorem test_selId : blkAfter (.selId 0#4) = some PA := by decide
theorem test_selSwap01 : blkAfter (.selSwap01 4#4) = some 0b110100101100101110000101101#27 := by decide
theorem test_selSwap12 : blkAfter (.selSwap12 0#4) = some 0b101100101100011110000101101#27 := by decide
theorem test_selRev : blkAfter (.selRev 0#4) = some 0b011100101100011110000101101#27 := by decide
theorem test_mix : blkAfter (.mix .encrypt 0#6) = some 0x5E7626B#27 := by decide +kernel
theorem test_fp : blkAfter (.fp 0#6) = some 0x682A7D5#27 := by decide +kernel
theorem test_fpi : blkAfter (.fpi 0#6) = some 0x7AE3053#27 := by decide +kernel
theorem test_kp : blkAfter (.kp .decrypt 0#6) = some 0x658BC2D#27 := by decide +kernel
theorem test_sb : blkAfter (.sb 0#6) = some 0x5F3EA24#27 := by decide +kernel
theorem test_sbi : blkAfter (.sbi 0#6) = some 0x3BAA636#27 := by decide +kernel
theorem test_encr : blkAfter (.encr 0#6) = some 0x5F55C3A#27 := by decide +kernel
theorem test_decr : (nextOf (exec (.decr 0#6) { bench with BLK := 0x5F55C3A#27 })).map (·.BLK) = some PA := by
  decide +kernel
theorem test_roundstepEnc : (nextOf (exec (.roundstepEnc 0#6) { bench with ST := .busy })).map
    (fun t => (t.BLK, t.ST, t.RND)) = some (0x5F55C3A#27, .busy, 1#6) := by decide +kernel
theorem test_roundstepDec : (nextOf (exec (.roundstepDec 0#6) { bench with BLK := 0x5F55C3A#27, ST := .busy })).map
    (fun t => (t.BLK, t.ST, t.RND)) = some (PA, .done, 0#6) := by decide +kernel
theorem test_encrypt : encrypt PA K3 = 0x1826020#27 := by decide +kernel
theorem test_decrypt : decrypt PA K3 = 0x0ECD899#27 := by decide +kernel

/-! ### Outputs and listings -/

theorem test_resch : resch (doneWith PA) 0 = some 0x31#8 ∧ resch (doneWith PA) 25 = some 0x30#8 ∧
    resch (doneWith PA) 27 = none ∧ resch loaded 0 = none := by decide
theorem test_list_line : listLine 0x30A#12 = some "PUSHB 0x0A" ∧ listLine 0x501#12 = none := by decide

theorem test_read_lines : readListing ["RESET", "PUSHB '1'   ; word 0x331", "PUSHK 0x0A", "LOADB \"01\"", "; nothing",
    "PUSHKS \"0\"*3", "WAIT 2", "ENC"] = some ([⟨true, 0x000#12⟩] ++
      ([0x331, 0x40A, 0x100, 0x330, 0x331, 0x430, 0x430, 0x430, 0x000, 0x000, 0x500] : List CmdWord).map command) := by
  decide +kernel
theorem test_read_bad_lines : readLine "PUSHB" = none ∧ readLine "ENC 0x01" = none ∧ readLine "XYZ" = none := by
  decide +kernel

/-! ### Memory -/

theorem test_mem_write_order : Memory.write (Memory.write [(5, true)] 7 false) 6 true =
    [(5, true), (6, true), (7, false)] := by decide
theorem test_mem_read_last_cell : memRead (cells k3 2475 45) 2519 1 = .ok 0#1 ∧
    memRead (cells k3 2475 45) 2519 2 = .error (.keyRange 2519 2) := ⟨by rfl, by rfl⟩

/-! ### The hypotheses of the statements can be met -/

theorem read_cells (f : Nat → Bit) (n lo a : Nat) :
    Memory.read (cells f lo n) a = if lo ≤ a ∧ a < lo + n then some (f a) else none := by
  induction n generalizing lo with
  | zero => rw [if_neg (by omega)]; rfl
  | succ n ih =>
    simp only [cells, Memory.read]
    by_cases h : lo = a
    · rw [if_pos h, if_pos (by omega), h]
    · rw [if_neg h, ih]
      congr 1
      simp only [eq_iff_iff]; omega

theorem holdsKey_loaded : holdsKey loaded.KEY K3 := fun a ha => by
  rw [K3, pos_ofPos _ ha]
  exact (read_cells k3 2520 0 a).trans (if_pos (by omega))

theorem holdsRoundKey_busyAt (d : Direction) (r : BitVec 6) (hr : r.toNat < 56) :
    holdsRoundKey (busyAt d r).KEY r.toNat (bigKey K3 r.toNat) (smallKey K3 r.toNat) := by
  refine ⟨fun p hp => ?_, fun q hq => ?_⟩
  · rw [bigKey, pos_slice _ hp, K3, pos_ofPos _ (by omega)]
    exact (read_cells k3 45 (45 * r.toNat) _).trans (if_pos (by omega))
  · rw [smallKey, pos_slice _ hq, K3, pos_ofPos _ (by omega)]
    exact (read_cells k3 45 (45 * r.toNat) _).trans (if_pos (by omega))

theorem keyWritten_loaded : keyWritten loaded.KEY 0 2520 := fun a _ ha => by
  rw [show loaded.KEY = cells k3 0 2520 from rfl, read_cells, if_pos (by omega)]; rfl

/-- The four rows that take the key window of round r, at its two ends (MixXorsBigKey, KpReordersEachGroup,
RoundsComposeStages, RoundStepAdvances). -/
theorem witness_round_key :
    ((0#6).toNat < 56 ∧ holdsRoundKey (busyAt .encrypt 0#6).KEY (0#6).toNat (bigKey K3 0) (smallKey K3 0)) ∧
    ((54#6).toNat < 56 ∧ holdsRoundKey (busyAt .encrypt 54#6).KEY (54#6).toNat (bigKey K3 54) (smallKey K3 54)) ∧
    ((1#6).toNat < 56 ∧ holdsRoundKey (busyAt .decrypt 1#6).KEY (1#6).toNat (bigKey K3 1) (smallKey K3 1)) ∧
    ((55#6).toNat < 56 ∧ holdsRoundKey (busyAt .encrypt 55#6).KEY (55#6).toNat (bigKey K3 55) (smallKey K3 55)) :=
  ⟨⟨by decide, holdsRoundKey_busyAt .encrypt 0#6 (by decide)⟩, ⟨by decide, holdsRoundKey_busyAt .encrypt 54#6 (by decide)⟩,
    ⟨by decide, holdsRoundKey_busyAt .decrypt 1#6 (by decide)⟩, ⟨by decide, holdsRoundKey_busyAt .encrypt 55#6 (by decide)⟩⟩

theorem witness_NopChangesNothing :
    ((sampled State.reset).rst = false ∧ (sampled State.reset).cmd = 0x000#12 ∧ State.reset.ST ≠ .busy) ∧
    ((sampled (busyAt .encrypt 55#6)).rst = false ∧ (sampled (busyAt .encrypt 55#6)).cmd = 0x000#12 ∧
      (busyAt .encrypt 55#6).ST = .busy ∧ (busyAt .encrypt 55#6).RND.toNat ≤ 55) := by decide

theorem witness_ClrbEmptiesBlockBuffer : loaded.ST = .idle ∧ (doneWith PA).ST ≠ .idle ∧
    (State.reset.BLK = ZERO27 ∧ State.reset.BLEN = 0#5 ∧ State.reset.BBAD = false) := by decide

theorem witness_PushbAppendsCharacter :
    (State.reset.ST = .idle ∧ State.reset.BLEN.toNat < 27) ∧
    (({ State.reset with BLEN := 26#5 } : State).ST = .idle ∧ ({ State.reset with BLEN := 26#5 } : State).BLEN.toNat < 27) ∧
    (loaded.ST = .idle ∧ loaded.BLEN = 27#5) ∧
    (({ State.reset with BLEN := 28#5 } : State).ST = .idle ∧ 28 ≤ ({ State.reset with BLEN := 28#5 } : State).BLEN.toNat) ∧
    (busyAt .encrypt 0#6).ST ≠ .idle := by decide

theorem witness_PushkAppendsCharacter :
    (State.reset.ST = .idle ∧ State.reset.KLEN.toNat < 2520) ∧
    (({ State.reset with KLEN := 2519#12 } : State).ST = .idle ∧
      ({ State.reset with KLEN := 2519#12 } : State).KLEN.toNat < 2520) ∧
    (loaded.ST = .idle ∧ 2520 ≤ loaded.KLEN.toNat) ∧ shortKey.ST ≠ .idle := by decide

theorem witness_ClrkEmptiesKey : loaded.ST = .idle ∧ (busyAt .decrypt 0#6).ST ≠ .idle := by decide

/-- EncStartsEncryption and DecStartsDecryption. -/
theorem witness_starts : (loaded.ST = .idle ∧ loaded.BLEN = 27#5 ∧ loaded.BBAD = false ∧ loaded.KLEN = 2520#12 ∧
    loaded.KBAD = false) ∧ shortKey.ST ≠ .idle := by decide

theorem witness_BlockErrorRaisedByBadBlock :
    (({ loaded with BLEN := 26#5 } : State).ST = .idle ∧ blockValid { loaded with BLEN := 26#5 } = false) ∧
    (({ loaded with BLEN := 28#5 } : State).ST = .idle ∧ blockValid { loaded with BLEN := 28#5 } = false) ∧
    (({ loaded with BBAD := true } : State).ST = .idle ∧ blockValid { loaded with BBAD := true } = false) ∧
    (loaded.ST = .idle ∧ blockValid loaded = true ∧ exec .enc loaded = .next { loaded with ST := .busy }) :=
  ⟨by decide, by decide, by decide, rfl, rfl, rfl⟩

theorem witness_KeyErrorRaisedByBadKey :
    (({ loaded with KLEN := 2519#12 } : State).ST = .idle ∧ blockValid { loaded with KLEN := 2519#12 } = true ∧
      keyValid { loaded with KLEN := 2519#12 } = false ∧ ({ loaded with KLEN := 2519#12 } : State).KLEN.toNat ≤ 2520 ∧
      exec .enc { loaded with KLEN := 2519#12 } = .next { loaded with KLEN := 2519#12, ST := .error, ERR := .errKey }) ∧
    (({ loaded with KBAD := true } : State).ST = .idle ∧ blockValid { loaded with KBAD := true } = true ∧
      keyValid { loaded with KBAD := true } = false ∧ ({ loaded with KBAD := true } : State).KLEN.toNat ≤ 2520 ∧
      exec .dec { loaded with KBAD := true } = .next { loaded with KBAD := true, ST := .error, ERR := .errKey }) :=
  ⟨⟨rfl, rfl, rfl, by decide, rfl⟩, rfl, rfl, rfl, by decide, rfl⟩

theorem witness_AckAcknowledges : (doneWith PA).ST = .done ∧ shortKey.ST = .error ∧ loaded.ST = .idle ∧
    (busyAt .encrypt 3#6).ST = .busy := by decide

theorem witness_ReservedWordsRaiseErrCmd :
    (reservedRow (.reserved0 0x01#8) = true ∧ State.reset.ST = .idle) ∧
    (reservedRow (.reservedHi 15#4 0xFF#8) = true ∧ (doneWith PA).ST ≠ .idle) := by decide

theorem witness_DoneAndErrorDropAllButAck :
    ((sampled ((doneWith PA).withFetchWord 16 0x701)).rst = false ∧ ((doneWith PA).withFetchWord 16 0x701).ST = .done ∧
      (sampled ((doneWith PA).withFetchWord 16 0x701)).cmd ≠ 0x700#12) ∧
    ((sampled shortKey).rst = false ∧ shortKey.ST = .error ∧ (sampled shortKey).cmd ≠ 0x700#12) := by decide

theorem witness_SelectorsReorderOneGroup :
    ((8#4).toNat < 9 ∧ grp loaded.BLK (8#4).toNat = ⟨true, false, true⟩ ∧
      (Instr.selRev 8#4, (⟨true, false, true⟩ : Group)) ∈ [(Instr.selId 8#4, (⟨true, false, true⟩ : Group)),
        (.selSwap01 8#4, ⟨false, true, true⟩), (.selSwap12 8#4, ⟨true, true, false⟩), (.selRev 8#4, ⟨true, false, true⟩)]) ∧
    (0 < 9 ∧ 0 ≠ (8#4).toNat) := by decide

theorem witness_DriversRunAllRoundsInOrder : holdsKey loaded.KEY K3 := holdsKey_loaded

theorem witness_UnwrittenKeyCellStopsARound :
    ((0#6).toNat < 56 ∧ 45 * (0#6).toNat ≤ 0 ∧ 0 < 45 * (0#6).toNat + 45 ∧ Memory.read State.reset.KEY 0 = none ∧
      ∀ b, 45 * (0#6).toNat ≤ b → b < 0 → (Memory.read State.reset.KEY b).isSome) ∧
    ((55#6).toNat < 56 ∧ 45 * (55#6).toNat ≤ 2519 ∧ 2519 < 45 * (55#6).toNat + 45 ∧
      Memory.read (cells k3 2475 44) 2519 = none ∧
      ∀ b, 45 * (55#6).toNat ≤ b → b < 2519 → (Memory.read (cells k3 2475 44) b).isSome) := by
  refine ⟨⟨by decide, by decide, by decide, rfl, fun b _ hb => absurd hb (Nat.not_lt_zero b)⟩,
    by decide, by decide, by decide, by rw [read_cells, if_neg (by omega)], fun b hb hb' => ?_⟩
  have hb : 2475 ≤ b := hb
  rw [read_cells, if_pos (by omega)]; rfl

/-- The bounded indices of FixedPermutationMovesPositions, SubstitutionAppliesTables and KpReordersEachGroup, and a group
for the last. -/
theorem witness_index_bounds : 0 ≤ 25 ∧ 25 ≤ 25 ∧ 8 < 9 ∧ grp PA 8 = ⟨true, false, true⟩ := by decide

theorem witness_PermutationTables : ([0, 3, 6] : List Nat)[2]? = some 6 ∧ (8 < 9) := by decide

theorem witness_FixedPermutationLaws : 26 < 27 ∧ (17, 25, 23) ∈ ([(14, 16, 22), (17, 25, 23)] : List (Nat × Nat × Nat)) := by
  decide

theorem witness_KpMultiplexerTables : 8 < 9 ∧ pos (0b11#18) (2 * 8) = true ∧ pos (0b11#18) (2 * 8 + 1) = true := by decide

/-- KeyedPermutationLaws and SubstitutionLaws, the clauses about one group: two Blocks that differ elsewhere. -/
theorem witness_one_group : 8 < 9 ∧ grp PA 8 = grp (0b101#27) 8 ∧ PA ≠ 0b101#27 ∧
    pos (0b01#18) (2 * 8) = pos (0b0101#18) (2 * 8) ∧ pos (0b01#18) (2 * 8 + 1) = pos (0b0101#18) (2 * 8 + 1) ∧ 7 < 8 := by
  decide

/-- CipherIsInvertible and KeyBitsBeyond2520AreIgnored at the least length, and the zero key of ZeroKeyKeepsZeroBlock. -/
theorem witness_key_lengths : 2520 ≤ 2520 ∧ 2520 ≤ 2560 ∧ ∀ a, a < 2520 → pos (0#2520 : BitSeq 2520) a = false :=
  ⟨le_refl _, by decide, fun a _ => pos_zero 2520 a⟩

theorem witness_DecodeAndEncodeAgree : (Instr.encrypt.wf = true ∧ .ctrl 0b010110111#9 ∈ encode .encrypt) ∧
    (Instr.roundstepDec 0#6).wf = true ∧ functionRow (.roundstepDec 0#6) = false ∧
    decode (.cmd 0xFFF#12) = .ok (.reservedHi 15#4 0xFF#8) := ⟨by decide, by decide, by decide, by rfl⟩

theorem witness_SelectorWordsDecode : (8#4).toNat < 9 ∧ (0#4).toNat < 9 := by decide

theorem witness_RoundKeyReadsAreKeySlices : (holdsKey loaded.KEY K3 ∧ 55 < 56 ∧ 26 < 27 ∧ 8 < 9) ∧ 2520 < 2520 + 1 :=
  ⟨⟨holdsKey_loaded, by decide⟩, by decide⟩

theorem witness_KeyChangesOnlyByPushk : ∃ t, step (State.reset.withFetchWord 16 0x431) = .next t ∧
    Memory.read t.KEY 0 ≠ Memory.read (State.reset.withFetchWord 16 0x431).KEY 0 := ⟨_, rfl, by decide⟩

theorem witness_OnlyPushkWritesKeyCells : (∀ ch, Instr.ack ≠ .pushk ch) ∧
    exec .ack shortKey = .next { shortKey with ST := .idle, ERR := .none } := ⟨nofun, rfl⟩

/-- Both lengths at their ends (KeyPushesFillCellsInOrder, BlockPushesFillPositionsInOrder, and the two list reads). -/
theorem witness_pushes : (State.reset.ST = .idle ∧ State.reset.KLEN = 0#12 ∧ State.reset.KBAD = false ∧
      State.reset.BLEN = 0#5 ∧ State.reset.BBAD = false) ∧
    (List.replicate 2520 true).length ≤ 2520 ∧ (List.replicate 27 true).length ≤ 27 ∧
    (List.replicate 27 true)[26]? = some true ∧ ([true] : List Bit)[0]? = some true ∧ ([true] : List Bit).length ≤ 26 :=
  ⟨by decide, List.length_replicate.le, List.length_replicate.le, by decide, by decide, by decide⟩

theorem witness_StepRunsDecodedInstruction :
    (sampled { State.reset with inputs := [⟨true, 0x500#12⟩] }).rst = true ∧
    ((sampled State.reset).rst = false ∧ decode (fetch State.reset) = .ok .nop ∧ State.reset.ST ≠ .busy) ∧
    ((busyAt .encrypt 55#6).ST = .busy ∧ (busyAt .encrypt 55#6).DIR = .encrypt ∧ (busyAt .encrypt 55#6).RND.toNat ≤ 55) ∧
    (busyAt .decrypt 0#6).ST = .busy ∧ (busyAt .decrypt 0#6).DIR = .decrypt ∧ (busyAt .decrypt 0#6).RND.toNat ≤ 55 :=
  ⟨rfl, ⟨rfl, by rfl, by decide⟩, by decide⟩

theorem witness_BusyStepRunsOneRound :
    ((sampled (busyAt .encrypt 55#6)).rst = false ∧ (busyAt .encrypt 55#6).ST = .busy ∧
      (busyAt .encrypt 55#6).RND.toNat ≤ 55 ∧ (busyAt .encrypt 55#6).DIR = .encrypt ∧
      holdsRoundKey (busyAt .encrypt 55#6).KEY (busyAt .encrypt 55#6).RND.toNat (bigKey K3 55) (smallKey K3 55)) ∧
    ((sampled (busyAt .decrypt 0#6)).rst = false ∧ (busyAt .decrypt 0#6).ST = .busy ∧
      (busyAt .decrypt 0#6).RND.toNat ≤ 55 ∧ (busyAt .decrypt 0#6).DIR = .decrypt ∧
      holdsRoundKey (busyAt .decrypt 0#6).KEY (busyAt .decrypt 0#6).RND.toNat (bigKey K3 0) (smallKey K3 0)) :=
  ⟨⟨rfl, rfl, by decide, rfl, holdsRoundKey_busyAt .encrypt 55#6 (by decide)⟩,
    rfl, rfl, by decide, rfl, holdsRoundKey_busyAt .decrypt 0#6 (by decide)⟩

/-- The last round of an operation, as the step takes it. -/
theorem last_round_step : ∃ t, step (busyAt .encrypt 55#6) = .next t ∧ t.ST = .done := by
  have h : (nextOf (step (busyAt .encrypt 55#6))).map (·.ST) = some .done := by decide +kernel
  cases hs : step (busyAt .encrypt 55#6) with
  | next t => rw [hs] at h; exact ⟨t, rfl, Option.some.inj h⟩
  | fault f => rw [hs] at h; cases h
  | refused f => rw [hs] at h; cases h

theorem witness_ResetOverridesEverything :
    (sampled { busyAt .encrypt 9#6 with inputs := [⟨true, 0x500#12⟩] }).rst = true ∧
    ((busyAt .encrypt 55#6).ST = .busy ∧ ∃ t, step (busyAt .encrypt 55#6) = .next t ∧ t.ST ≠ .busy) ∧
    ((busyAt .encrypt 55#6).RND.toNat ≤ 55 ∧ (busyAt .decrypt 0#6).ST = .busy ∧ (busyAt .decrypt 0#6).RND.toNat ≤ 55) ∧
    (sampled State.reset).rst = false ∧ decode (fetch State.reset) = .ok .nop := by
  obtain ⟨t, h, ht⟩ := last_round_step
  exact ⟨rfl, ⟨rfl, t, h, by simp [ht]⟩, by decide, rfl, by rfl⟩

theorem witness_ResetValuesAndOutputs : (sampled { loaded with inputs := [⟨true, 0xFFF#12⟩] }).rst = true := rfl

theorem witness_OutputsFollowTheState : (doneWith PA).ST = .done ∧ (busyAt .encrypt 1#6).ST ≠ .done ∧ 26 < 27 := by decide

theorem witness_IrqIsClearedByAckAndReset :
    ((outputs ((doneWith PA).withFetchWord 16 0x700)).irq = true ∧
      (sampled ((doneWith PA).withFetchWord 16 0x700)).cmd = 0x700#12) ∧
    ((outputs shortKey).irq = true ∧ (sampled shortKey).rst = false ∧ (sampled shortKey).cmd ≠ 0x700#12) := by decide

/-- One transition of each kind that ControllerStateTransitions lists. -/
theorem witness_ControllerStateTransitions :
    (∃ t, step (loaded.withFetchWord 16 0x500) = .next t ∧ t.ST = .busy) ∧
    (∃ t, step (State.reset.withFetchWord 16 0x600) = .next t ∧ t.ST = .error) ∧
    (∃ t, step (State.reset.withFetchWord 16 0x501) = .next t ∧ t.ST = .error) ∧
    (∃ t, step (busyAt .encrypt 55#6) = .next t ∧ t.ST = .done) ∧
    (∃ t, step ((doneWith PA).withFetchWord 16 0x700) = .next t ∧ t.ST = .idle) ∧
    (sampled (loaded.withFetchWord 16 0x500)).rst = false :=
  ⟨⟨_, rfl, rfl⟩, ⟨_, rfl, rfl⟩, ⟨_, rfl, rfl⟩, last_round_step, ⟨_, rfl, rfl⟩, rfl⟩

theorem witness_ExceptionsArePrecise : ∃ t, step (State.reset.withFetchWord 16 0x800) = .next t ∧
    (State.reset.withFetchWord 16 0x800).ST ≠ .error ∧ t.ST = .error := ⟨_, rfl, by decide, rfl⟩

theorem witness_DoneAndErrorHoldUntilAck : (doneWith PA).ST = .done ∧ shortKey.ST = .error ∧
    (∀ h ∈ ([⟨false, 0x500#12⟩, ⟨false, 0x701#12⟩] : List HostInput), h.rst = false) ∧
    ∀ h ∈ ([⟨false, 0x500#12⟩, ⟨false, 0x701#12⟩] : List HostInput), h.cmd ≠ 0x700#12 := by decide

/-- Two engines with different Blocks in the same round, at the longest run in either direction. -/
theorem witness_ControlIsIndependentOfData :
    (({ loaded with ST := .busy } : State).ST = .busy ∧ ({ loaded with ST := .busy, BLK := ZERO27 } : State).ST = .busy ∧
      keyWritten ({ loaded with ST := .busy } : State).KEY 0 2520 ∧ noReset [] ∧ noReset [⟨false, 0x700#12⟩] ∧
      56 ≤ 56 - ({ loaded with ST := .busy } : State).RND.toNat) ∧
    56 ≤ ({ loaded with ST := .busy, DIR := .decrypt, RND := 55#6 } : State).RND.toNat + 1 := by
  refine ⟨⟨rfl, rfl, keyWritten_loaded, ?_, ?_, by decide⟩, by decide⟩
  · intro h hh; cases hh
  · intro h hh; rw [List.mem_singleton.mp hh]

theorem witness_OutputsHideKeyAndRunningBlock :
    (busyAt .encrypt 0#6).ST = ({ busyAt .encrypt 0#6 with BLK := ZERO27, KEY := [] } : State).ST ∧
    ((busyAt .encrypt 0#6).ST = .done → (busyAt .encrypt 0#6).BLK = ZERO27) ∧ (busyAt .encrypt 0#6).BLK ≠ ZERO27 := by decide

/-- A BUSY state with the invariants, and a step from it (StepKeepsInvariants, StepIsTotalUnderInvariants). -/
theorem witness_invariants : StateInv { loaded with ST := .busy } ∧ StateInv (State.reset.withFetchWord 16 0x331) ∧
    ∃ t, step (State.reset.withFetchWord 16 0x331) = .next t := by
  refine ⟨⟨by decide, by decide, by decide, by decide, fun _ => by decide, keyWritten_loaded, by decide, ?_⟩,
    ⟨by decide, by decide, by decide, by decide, by decide, fun a h h' => absurd h' (Nat.not_lt_zero a), ?_, rfl⟩, _, rfl⟩
  · decide +kernel
  · intro _ p _ _; exact pos_zero 27 p

theorem witness_MachineComputesTheCipher : loaded.ST = .idle ∧ loaded.BLEN = 27#5 ∧ loaded.BBAD = false ∧
    loaded.KLEN = 2520#12 ∧ loaded.KBAD = false ∧ holdsKey loaded.KEY K3 ∧ noReset [⟨false, 0x200#12⟩] ∧ 56 ≤ 56 ∧ 0 ≤ 56 :=
  ⟨rfl, rfl, rfl, rfl, rfl, holdsKey_loaded, fun h hh => by rw [List.mem_singleton.mp hh], by decide, by decide⟩

theorem witness_InvocationYieldsTheResult : State.reset.ST = .idle ∧ 2520 ≤ (List.replicate 2560 true).length ∧
    2520 ≤ (List.replicate 2520 true).length ∧ (List.replicate 27 true).length = 27 := ⟨rfl, by rw [List.length_replicate]; decide, List.length_replicate.ge, List.length_replicate⟩

end Sys2Proof.Tests
end

