-- ==== Sys2Proof/Proofs/ResetAndOutputs.lean ====
section
/-! SUPPORT. What a reset step does and what the output ports show (10_state.md R31, R35), and the two obligations about
them. -/
namespace Sys2Proof.Machine

/-! ### The reset step -/

/-- A step with `rst` = 1 looks at neither the control state nor the command word. -/
theorem step_of_rst {s : State} (h : (sampled s).rst = true) : step s = .next (resetState (consume s)) := if_pos h

theorem resetState_consume (s : State) :
    resetState (consume s) = { State.reset with KEY := s.KEY, inputs := s.inputs.tail } := rfl

/-! ### The output ports -/

section
variable (s : State)

@[simp] theorem outputs_st : (outputs s).st = s.ST.code := rfl
@[simp] theorem outputs_err : (outputs s).err = s.ERR.code := rfl
@[simp] theorem outputs_blen : (outputs s).blen = s.BLEN := rfl
@[simp] theorem outputs_klen : (outputs s).klen = s.KLEN := rfl
@[simp] theorem outputs_bbad : (outputs s).bbad = s.BBAD := rfl
@[simp] theorem outputs_kbad : (outputs s).kbad = s.KBAD := rfl

end

theorem outputs_ready_iff {s : State} : (outputs s).ready = true ↔ s.ST = .idle := beq_iff_eq

theorem outputs_irq_iff {s : State} : (outputs s).irq = true ↔ s.ST = .done ∨ s.ST = .error := by
  simp only [outputs, Bool.or_eq_true, beq_iff_eq]

theorem outputs_res_done {s : State} (h : s.ST = .done) : (outputs s).res = s.BLK := if_pos h

theorem outputs_res_hidden {s : State} (h : s.ST ≠ .done) : (outputs s).res = 0#27 := if_neg h

/-! ### The characters of the result -/

/-- Position p is the conventional bit n - 1 - p (00_scope.md R10). -/
theorem pos_eq_getLsbD {n p : Nat} (B : BitSeq n) (h : p < n) : pos B p = B.getLsbD (n - 1 - p) := by
  simp only [pos, BitVec.getMsbD, h, decide_true, Bool.true_and]

/-- The sum `0x30 + b` of R31 is the character of the bit. -/
theorem add_bit_eq_bitChar (b : Bit) : 0x30#8 + BitVec.ofNat 8 b.toNat = bitChar b := by
  cases b with
  | false => rfl
  | true => rfl

theorem resch_done {s : State} {p : Nat} (h : s.ST = .done) (hp : p < 27) :
    resch s p = some (bitChar (pos s.BLK p)) := by
  rw [resch, if_pos ⟨h, hp⟩, add_bit_eq_bitChar]

theorem resch_hidden {s : State} (p : Nat) (h : s.ST ≠ .done) : resch s p = none := if_neg fun hd => h hd.1

/-! ### The obligations -/

/-- Settles O45: the reset step is `resetState` on the consumed state, whose registers are those of `State.reset`. -/
theorem resetValuesAndOutputs : Obligations.ResetValuesAndOutputs := by
  unfold Obligations.ResetValuesAndOutputs
  refine ⟨⟨rfl, rfl, rfl, rfl, rfl, rfl, rfl, rfl, rfl⟩, fun s hrst => ?_⟩
  exact ⟨_, step_of_rst hrst, resetState_consume s, rfl⟩

/-- Settles O46, port by port; the codes and the gating of `res` and `resch` by the controller state. -/
theorem outputsFollowTheState : Obligations.OutputsFollowTheState := by
  unfold Obligations.OutputsFollowTheState
  intro s
  refine ⟨?st, ?err, outputs_ready_iff, outputs_irq_iff, ?resDone, outputs_res_hidden, outputs_blen s, outputs_klen s,
    outputs_bbad s, outputs_kbad s, fun p hp hd => resch_done hd hp, resch_hidden⟩
  case st => rw [outputs_st]; cases s.ST <;> rfl
  case err => rw [outputs_err]; cases s.ERR <;> rfl
  case resDone =>
    intro hd
    rw [outputs_res_done hd]
    exact ⟨rfl, fun p hp => (pos_eq_getLsbD s.BLK hp).symm⟩

end Sys2Proof.Machine
end

/-! SUPPORT. What a step in BUSY does (42_driver.md R146): the control state selects the round step, the window of round
`RND` gives it its key pair, and the last round and the others end it differently; and the obligation about it. -/
namespace Sys2Proof.Machine

/-! ### The round step on a written window -/

theorem roundOk_iff {r : BitVec 6} : roundOk r = true ↔ r.toNat ≤ 55 := by
  simp only [roundOk, decide_eq_true_eq]
  exact Nat.lt_succ_iff

/-- A window that holds a round key pair is read as that pair (R55, R56). -/
theorem withRoundKey_of_holdsRoundKey {s : State} {r : Nat} {K27 : BigKeyBits} {K18 : SmallKeyBits}
    (f : BigKeyBits → SmallKeyBits → State) (hr : r ≤ 55) (hk : holdsRoundKey s.KEY r K27 K18) :
    withRoundKey s r f = .next (f K27 K18) := by
  obtain ⟨hbig, hsmall⟩ := hk
  exact withRoundKey_ok (memRead_ok_iff.mpr ⟨by omega, hbig⟩) (memRead_ok_iff.mpr ⟨by omega, hsmall⟩)

/-- The two ends of an encryption round, field by field: `ST` and `RND` are the only ones it can touch. -/
theorem advanceEnc_eq (r : BitVec 6) (s : State) : advanceEnc r s =
    { s with ST := if r = 55#6 then .done else s.ST, RND := if r = 55#6 then s.RND else r + 1#6 } := by
  rcases advanceEnc_cases r s with ⟨hr, h⟩ | ⟨hr, h⟩
  · rw [h, if_pos hr, if_pos hr]
  · rw [h, if_neg hr, if_neg hr]

/-- The two ends of a decryption round, field by field: `ST` and `RND` are the only ones it can touch. -/
theorem advanceDec_eq (r : BitVec 6) (s : State) : advanceDec r s =
    { s with ST := if r = 0#6 then .done else s.ST, RND := if r = 0#6 then s.RND else r - 1#6 } := by
  rcases advanceDec_cases r s with ⟨hr, h⟩ | ⟨hr, h⟩
  · rw [h, if_pos hr, if_pos hr]
  · rw [h, if_neg hr, if_neg hr]

theorem exec_roundstepEnc_of_holdsRoundKey {s : State} {r : BitVec 6} {K27 : BigKeyBits} {K18 : SmallKeyBits}
    (hr : r.toNat ≤ 55) (hk : holdsRoundKey s.KEY r.toNat K27 K18) :
    exec (.roundstepEnc r) s = .next (advanceEnc r (setBlk (encr s.BLK K27 K18) s)) :=
  withRoundKey_of_holdsRoundKey _ hr hk

theorem exec_roundstepDec_of_holdsRoundKey {s : State} {r : BitVec 6} {K27 : BigKeyBits} {K18 : SmallKeyBits}
    (hr : r.toNat ≤ 55) (hk : holdsRoundKey s.KEY r.toNat K27 K18) :
    exec (.roundstepDec r) s = .next (advanceDec r (setBlk (decr s.BLK K27 K18) s)) :=
  withRoundKey_of_holdsRoundKey _ hr hk

/-! ### The step -/

/-- A step without reset runs the instruction decoded (R150). -/
theorem step_of_decode {s : State} {i : Instr} (hrst : (sampled s).rst = false) (hi : decode (fetch s) = .ok i) :
    step s = exec i (consume s) := by
  simp only [step, hrst, hi, Bool.false_eq_true, if_false]

/-- In BUSY the control state selects the step, so the command word has no part in it (R146, R160). -/
theorem step_busy_encrypt {s : State} (hrst : (sampled s).rst = false) (hst : s.ST = .busy) (hd : s.DIR = .encrypt)
    (hr : s.RND.toNat ≤ 55) : step s = exec (.roundstepEnc s.RND) (consume s) := by
  refine step_of_decode hrst ?_
  rw [fetch_busy hst, hd]
  exact decode_busyWord_encrypt (roundOk_iff.mpr hr)

theorem step_busy_decrypt {s : State} (hrst : (sampled s).rst = false) (hst : s.ST = .busy) (hd : s.DIR = .decrypt)
    (hr : s.RND.toNat ≤ 55) : step s = exec (.roundstepDec s.RND) (consume s) := by
  refine step_of_decode hrst ?_
  rw [fetch_busy hst, hd]
  exact decode_busyWord_decrypt (roundOk_iff.mpr hr)

/-! ### The obligation -/

/-- Settles O43: the step is the round step of `DIR` at `RND`, its key pair is read from the window, and `advanceEnc_eq`
and `advanceDec_eq` say which of `ST` and `RND` it then changes. -/
theorem busyStepRunsOneRound : Obligations.BusyStepRunsOneRound := by
  unfold Obligations.BusyStepRunsOneRound
  intro s K27 K18 hrst hst hr hk
  have hk' : holdsRoundKey (consume s).KEY s.RND.toNat K27 K18 := by rwa [consume_KEY]
  refine ⟨fun hd => ?encrypt, fun hd => ?decrypt⟩
  case encrypt =>
    rw [step_busy_encrypt hrst hst hd hr, exec_roundstepEnc_of_holdsRoundKey hr hk', advanceEnc_eq, setBlk_ST, consume_ST, hst]
    rfl
  case decrypt =>
    rw [step_busy_decrypt hrst hst hd hr, exec_roundstepDec_of_holdsRoundKey hr hk', advanceDec_eq, setBlk_ST, consume_ST, hst]
    rfl

end Sys2Proof.Machine

/-! SUPPORT. The command words by opcode (30_encoding.md R82, R84): one equation of the decoder for each opcode. -/
namespace Sys2Proof

/-- The three kinds of opcode: no command's, a command's with a character operand, a command's without operand (R82). -/
theorem opcode_cases (op : BitVec 4) : 8 ≤ op.toNat ∨ op = 3#4 ∨ op = 4#4 ∨
    (op = 0#4 ∨ op = 1#4 ∨ op = 2#4 ∨ op = 5#4 ∨ op = 6#4 ∨ op = 7#4) := by
  revert op; decide

section
variable (ch : Character)

@[simp] theorem decodeCmd_op0 : decodeCmd (cmdWord 0#4 ch) = if ch = 0x00#8 then .nop else .reserved0 ch := by
  simp [decodeCmd]
@[simp] theorem decodeCmd_op1 : decodeCmd (cmdWord 1#4 ch) = if ch = 0x00#8 then .clrb else .reserved1 ch := by
  simp [decodeCmd]
@[simp] theorem decodeCmd_op2 : decodeCmd (cmdWord 2#4 ch) = if ch = 0x00#8 then .clrk else .reserved2 ch := by
  simp [decodeCmd]
@[simp] theorem decodeCmd_op3 : decodeCmd (cmdWord 3#4 ch) = .pushb ch := by simp [decodeCmd]
@[simp] theorem decodeCmd_op4 : decodeCmd (cmdWord 4#4 ch) = .pushk ch := by simp [decodeCmd]
@[simp] theorem decodeCmd_op5 : decodeCmd (cmdWord 5#4 ch) = if ch = 0x00#8 then .enc else .reserved5 ch := by
  simp [decodeCmd]
@[simp] theorem decodeCmd_op6 : decodeCmd (cmdWord 6#4 ch) = if ch = 0x00#8 then .dec else .reserved6 ch := by
  simp [decodeCmd]
@[simp] theorem decodeCmd_op7 : decodeCmd (cmdWord 7#4 ch) = if ch = 0x00#8 then .ack else .reserved7 ch := by
  simp [decodeCmd]

/-- The opcodes that are no command's are reserved with every character. -/
theorem decodeCmd_opHi {op : BitVec 4} (h : 8 ≤ op.toNat) : decodeCmd (cmdWord op ch) = .reservedHi op ch := by
  have ne : ∀ k : BitVec 4, k.toNat < 8 → op ≠ k := by rintro k hk rfl; omega
  simp [decodeCmd, ne 0#4, ne 1#4, ne 2#4, ne 3#4, ne 4#4, ne 5#4, ne 6#4, ne 7#4]

end

end Sys2Proof

/-! SUPPORT. The host commands outside BUSY (43_host_commands.md R160 to R169): NOP, CLRB and the reserved words, and the
obligations about them. -/
namespace Sys2Proof.Machine

/-- Outside BUSY a step without reset runs the instruction its command word spells (R150). -/
theorem step_host {s : State} (hrst : (sampled s).rst = false) (hst : s.ST ≠ .busy) :
    step s = exec (decodeCmd (sampled s).cmd) (consume s) :=
  step_of_decode hrst (by rw [fetch_host hst, decode_cmd])

/-! ### NOP and CLRB -/

@[simp] theorem exec_nop (s : State) : exec .nop s = .next s := rfl

theorem exec_clrb (s : State) : exec .clrb s = .next (whenIdle s clearBlock) := rfl

/-- Emptying an empty block buffer changes nothing (R162, corner cases). -/
theorem clearBlock_of_empty {s : State} (hblk : s.BLK = ZERO27) (hblen : s.BLEN = 0#5) (hbbad : s.BBAD = false) :
    clearBlock s = s := by
  rw [clearBlock, ← hblk, ← hblen, ← hbbad]

/-! ### The reserved words -/

/-- Which words the reserved rows take: an opcode without operand and a character that is not 0, or an opcode without a
command (R82). -/
theorem reservedRow_decodeCmd_cmdWord (op : BitVec 4) (ch : Character) :
    reservedRow (decodeCmd (cmdWord op ch)) = true ↔
      (ch ≠ 0x00#8 ∧ (op = 0#4 ∨ op = 1#4 ∨ op = 2#4 ∨ op = 5#4 ∨ op = 6#4 ∨ op = 7#4)) ∨ 8 ≤ op.toNat := by
  rcases opcode_cases op with hop | rfl | rfl | hop
  · rw [decodeCmd_opHi ch hop]
    exact iff_of_true rfl (.inr hop)
  · simp [reservedRow]
  · simp [reservedRow]
  · have hlow : ¬ 8 ≤ op.toNat := by rcases hop with rfl | rfl | rfl | rfl | rfl | rfl <;> decide
    have hch : reservedRow (decodeCmd (cmdWord op ch)) = true ↔ ch ≠ 0x00#8 := by
      by_cases hz : ch = 0x00#8
      · rcases hop with rfl | rfl | rfl | rfl | rfl | rfl <;> simp [hz, reservedRow]
      · rcases hop with rfl | rfl | rfl | rfl | rfl | rfl <;> simp [hz, reservedRow]
    simp only [hch, hop, hlow, and_true, or_false]

/-- All reserved rows have one meaning: ERR_CMD, raised in IDLE only (R169). -/
theorem exec_of_reservedRow {i : Instr} (h : reservedRow i = true) (s : State) :
    exec i s = .next (whenIdle s (raise .errCmd)) := by
  cases i with
  | reserved0 | reserved1 | reserved2 | reserved5 | reserved6 | reserved7 | reservedHi => rfl
  | _ => cases h

/-! ### The obligations -/

/-- Settles O11: the reserved words by opcode, and the one meaning of their rows inside and outside IDLE. -/
theorem reservedWordsRaiseErrCmd : Obligations.ReservedWordsRaiseErrCmd := by
  unfold Obligations.ReservedWordsRaiseErrCmd
  refine ⟨fun w => ?words, fun i s hi => ⟨fun hs => ?idle, fun hs => ?dropped⟩⟩
  case words =>
    have h := reservedRow_decodeCmd_cmdWord (cmdOp w) (cmdCh w)
    rwa [cmdWord_fields] at h
  case idle => rw [exec_of_reservedRow hi, whenIdle_idle hs, raise]
  case dropped => rw [exec_of_reservedRow hi, whenIdle_dropped hs]

/-- Settles O1: outside BUSY the step runs NOP on the consumed state; in BUSY the control state selects the round step of
`DIR`, whatever the command word. -/
theorem nopChangesNothing : Obligations.NopChangesNothing := by
  unfold Obligations.NopChangesNothing
  have hword : decodeCmd 0x000#12 = .nop := by decide
  refine ⟨hword, exec_nop, fun s hrst hcmd hst => ?host, fun s hrst _ hst hr => ?busy⟩
  case host => rw [step_host hrst hst, hcmd, hword, exec_nop]
  case busy =>
    cases hd : s.DIR with
    | encrypt => exact step_busy_encrypt hrst hst hd hr
    | decrypt => exact step_busy_decrypt hrst hst hd hr

/-- Settles O2: CLRB is `clearBlock` in IDLE and nothing elsewhere, and `clearBlock` keeps an empty buffer. -/
theorem clrbEmptiesBlockBuffer : Obligations.ClrbEmptiesBlockBuffer := by
  unfold Obligations.ClrbEmptiesBlockBuffer
  refine ⟨by decide, fun s hs => ?idle, fun s hs => ?dropped, fun s hblk hblen hbbad => ?empty⟩
  case idle => rw [exec_clrb, whenIdle_idle hs, clearBlock]
  case dropped => rw [exec_clrb, whenIdle_dropped hs]
  case empty =>
    by_cases hs : s.ST = .idle
    · rw [exec_clrb, whenIdle_idle hs, clearBlock_of_empty hblk hblen hbbad]
    · rw [exec_clrb, whenIdle_dropped hs]

end Sys2Proof.Machine

/-! SUPPORT. The refused starts (60_exceptions.md R191, R192): ENC and DEC in IDLE are one operation in two directions,
which tests the block before the key; and the obligations about them. -/
namespace Sys2Proof.Machine

/-! ### ENC and DEC -/

theorem exec_enc (s : State) : exec .enc s = .next (whenIdle s (startOrRaise .encrypt)) := rfl

theorem exec_dec (s : State) : exec .dec s = .next (whenIdle s (startOrRaise .decrypt)) := rfl

theorem exec_enc_idle {s : State} (hs : s.ST = .idle) : exec .enc s = .next (startOrRaise .encrypt s) := by
  rw [exec_enc, whenIdle_idle hs]

theorem exec_dec_idle {s : State} (hs : s.ST = .idle) : exec .dec s = .next (startOrRaise .decrypt s) := by
  rw [exec_dec, whenIdle_idle hs]

/-- In IDLE both commands are a start, in a direction of their own (R166, R167). -/
theorem eq_startOrRaise_of_exec_enc_or_dec {s t : State} (hs : s.ST = .idle)
    (h : exec .enc s = .next t ∨ exec .dec s = .next t) : ∃ d, t = startOrRaise d s := by
  rw [exec_enc_idle hs, exec_dec_idle hs] at h
  rcases h with h | h
  · exact ⟨.encrypt, (Host.Outcome.next.inj h).symm⟩
  · exact ⟨.decrypt, (Host.Outcome.next.inj h).symm⟩

/-! ### The two validity predicates, refused -/

theorem blockValid_eq_false_iff {s : State} : blockValid s = false ↔ s.BLEN ≠ 27#5 ∨ s.BBAD = true := by
  rw [← Bool.not_eq_true, blockValid_iff, not_and_or, Bool.not_eq_false]

theorem keyValid_eq_false_iff {s : State} : keyValid s = false ↔ s.KLEN ≠ 2520#12 ∨ s.KBAD = true := by
  rw [← Bool.not_eq_true, keyValid_iff, not_and_or, Bool.not_eq_false]

/-- `KLEN` counts up to 2520 (R24), so a key of another length is a short one. -/
theorem KLEN_ne_iff_lt {s : State} (h : s.KLEN.toNat ≤ 2520) : s.KLEN ≠ 2520#12 ↔ s.KLEN.toNat < 2520 := by
  rw [lt_iff_le_and_ne, and_iff_right h, ne_eq, ne_eq, ← BitVec.toNat_inj, BitVec.toNat_ofNat]

/-! ### The start by validity, the block condition first (R196) -/

theorem startOrRaise_of_badBlock {s : State} (d : Direction) (hb : blockValid s = false) :
    startOrRaise d s = raise .errBlock s := by simp [startOrRaise, hb]

theorem startOrRaise_of_badKey {s : State} (d : Direction) (hb : blockValid s = true) (hk : keyValid s = false) :
    startOrRaise d s = raise .errKey s := by simp [startOrRaise, hb, hk]

theorem startOrRaise_of_valid {s : State} (d : Direction) (hb : blockValid s = true) (hk : keyValid s = true) :
    startOrRaise d s = start d s := by simp [startOrRaise, hb, hk]

/-- With a valid block a start ends in ERR_KEY or in BUSY, so never in ERR_BLOCK. -/
theorem startOrRaise_not_errBlock {s : State} (d : Direction) (hb : blockValid s = true) :
    ¬ ((startOrRaise d s).ST = .error ∧ (startOrRaise d s).ERR = .errBlock) := by
  cases hk : keyValid s with
  | false => simp [startOrRaise_of_badKey d hb hk]
  | true => simp [startOrRaise_of_valid d hb hk]

/-! ### The obligations -/

/-- Settles O8: an invalid block makes both starts `raise .errBlock`, and `startOrRaise_not_errBlock` is the converse. -/
theorem blockErrorRaisedByBadBlock : Obligations.BlockErrorRaisedByBadBlock := by
  unfold Obligations.BlockErrorRaisedByBadBlock
  refine ⟨fun s => blockValid_eq_false_iff, fun s hs hb => ⟨?enc, ?dec⟩, fun s hs hb t h => ?converse⟩
  case enc => rw [exec_enc_idle hs, startOrRaise_of_badBlock _ hb, raise]
  case dec => rw [exec_dec_idle hs, startOrRaise_of_badBlock _ hb, raise]
  case converse =>
    obtain ⟨d, rfl⟩ := eq_startOrRaise_of_exec_enc_or_dec hs h
    exact startOrRaise_not_errBlock d hb

/-- Settles O9: with a valid block an invalid key makes both starts `raise .errKey`, which keeps `KLEN` and `KBAD`, so
the outputs still show which of the two conditions failed. -/
theorem keyErrorRaisedByBadKey : Obligations.KeyErrorRaisedByBadKey := by
  unfold Obligations.KeyErrorRaisedByBadKey
  refine ⟨fun s hlen => ?invalid, fun s hs hb hk => ⟨?enc, ?dec⟩, fun s hs hb hk _ t h => ?outputs⟩
  case invalid => rw [keyValid_eq_false_iff, KLEN_ne_iff_lt hlen]
  case enc => rw [exec_enc_idle hs, startOrRaise_of_badKey _ hb hk, raise]
  case dec => rw [exec_dec_idle hs, startOrRaise_of_badKey _ hb hk, raise]
  case outputs =>
    obtain ⟨d, rfl⟩ := eq_startOrRaise_of_exec_enc_or_dec hs h
    rw [startOrRaise_of_badKey d hb hk, outputs_klen, outputs_kbad, raise_KLEN, raise_KBAD]
    exact ⟨fun hfull => (keyValid_eq_false_iff.mp hk).resolve_left (not_not_intro hfull), rfl, rfl⟩

end Sys2Proof.Machine

/-! SUPPORT. How BUSY is left (70_reset_and_hazards.md R220): everything a step in BUSY can do, and which of its ends is
outside BUSY; and the obligation about it. -/
namespace Sys2Proof.Machine

/-! ### Everything a step in BUSY can do -/

/-- A control word of BUSY is refused when its `RND` is 56 to 63, values `RND` never takes (R28). -/
theorem roundOk_of_decode_busyWord {d : Direction} {r : BitVec 6} {i : Instr}
    (h : decode (.ctrl (busyWord d r)) = .ok i) : roundOk r = true := by
  cases hr : roundOk r with
  | true => rfl
  | false => simp [decode, decodeCtrl, hr] at h

theorem exec_roundstepEnc_next {r : BitVec 6} {s t : State} (h : exec (.roundstepEnc r) s = .next t) :
    ∃ K27 K18, t = advanceEnc r (setBlk (encr s.BLK K27 K18) s) := by
  obtain ⟨K27, K18, -, -, ht⟩ := withRoundKey_next h
  exact ⟨K27, K18, ht⟩

theorem exec_roundstepDec_next {r : BitVec 6} {s t : State} (h : exec (.roundstepDec r) s = .next t) :
    ∃ K27 K18, t = advanceDec r (setBlk (decr s.BLK K27 K18) s) := by
  obtain ⟨K27, K18, -, -, ht⟩ := withRoundKey_next h
  exact ⟨K27, K18, ht⟩

/-- Everything a step from BUSY that answers a next state can do: a reset step, or the round step of `DIR` (R146, R150). -/
theorem step_busy_next_cases {s t : State} (hst : s.ST = .busy) (h : step s = .next t) :
    ((sampled s).rst = true ∧ t = resetState (consume s)) ∨
    (s.DIR = .encrypt ∧ ∃ K27 K18, t = advanceEnc s.RND (setBlk (encr s.BLK K27 K18) (consume s))) ∨
    (s.DIR = .decrypt ∧ ∃ K27 K18, t = advanceDec s.RND (setBlk (decr s.BLK K27 K18) (consume s))) := by
  rcases step_next_cases h with hreset | ⟨hrst, i, hi, -⟩
  · exact .inl hreset
  · rw [fetch_busy hst] at hi
    have hr : s.RND.toNat ≤ 55 := roundOk_iff.mp (roundOk_of_decode_busyWord hi)
    cases hd : s.DIR with
    | encrypt =>
      rw [step_busy_encrypt hrst hst hd hr] at h
      exact .inr (.inl ⟨rfl, exec_roundstepEnc_next h⟩)
    | decrypt =>
      rw [step_busy_decrypt hrst hst hd hr] at h
      exact .inr (.inr ⟨rfl, exec_roundstepDec_next h⟩)

/-! ### The ends of a round outside BUSY -/

/-- A round step of encryption that changes `ST` is the last one, and ends in DONE (R147). -/
theorem advanceEnc_ST_ne {r : BitVec 6} {s : State} (h : (advanceEnc r s).ST ≠ s.ST) :
    (advanceEnc r s).ST = .done ∧ r = 55#6 := by
  rcases advanceEnc_cases r s with ⟨hr, he⟩ | ⟨-, he⟩
  · exact ⟨by rw [he], hr⟩
  · exact absurd (by rw [he]) h

/-- A round step of decryption that changes `ST` is the last one, and ends in DONE (R147). -/
theorem advanceDec_ST_ne {r : BitVec 6} {s : State} (h : (advanceDec r s).ST ≠ s.ST) :
    (advanceDec r s).ST = .done ∧ r = 0#6 := by
  rcases advanceDec_cases r s with ⟨hr, he⟩ | ⟨-, he⟩
  · exact ⟨by rw [he], hr⟩
  · exact absurd (by rw [he]) h

/-- A step leaves BUSY by a reset or by the last round of its direction, and by nothing else (R220). -/
theorem reset_or_last_round_of_leaves_busy {s t : State} (hst : s.ST = .busy) (h : step s = .next t) (ht : t.ST ≠ .busy) :
    (sampled s).rst = true ∨
      (t.ST = .done ∧ (s.DIR = .encrypt ∧ s.RND = 55#6 ∨ s.DIR = .decrypt ∧ s.RND = 0#6)) := by
  rw [← hst] at ht
  rcases step_busy_next_cases hst h with ⟨hrst, -⟩ | ⟨hd, K27, K18, rfl⟩ | ⟨hd, K27, K18, rfl⟩
  · exact .inl hrst
  · obtain ⟨hdone, hr⟩ := advanceEnc_ST_ne ht
    exact .inr ⟨hdone, .inl ⟨hd, hr⟩⟩
  · obtain ⟨hdone, hr⟩ := advanceDec_ST_ne ht
    exact .inr ⟨hdone, .inr ⟨hd, hr⟩⟩

/-! ### The obligation -/

/-- Settles O44: the reset step is `resetState` in every state, `step_busy_next_cases` lists the ways out of BUSY, and a
word presented in BUSY is consumed while the control state selects the round step. -/
theorem resetOverridesEverything : Obligations.ResetOverridesEverything := by
  unfold Obligations.ResetOverridesEverything
  refine ⟨fun s hrst => ?reset, fun s t hst h ht => reset_or_last_round_of_leaves_busy hst h ht,
    fun s w hst hr => ?busy, fun s i hrst hi => step_of_decode hrst hi⟩
  case reset => rw [step_of_rst hrst, resetState_consume, State.reset]
  case busy =>
    split
    next hd => exact step_busy_encrypt (s := withInputs s (⟨false, w⟩ :: s.inputs)) rfl hst hd hr
    next hd => exact step_busy_decrypt (s := withInputs s (⟨false, w⟩ :: s.inputs)) rfl hst hd hr

end Sys2Proof.Machine

/-! SUPPORT. The encodings of 30_encoding.md: what each format decodes to and how that is encoded again, the rows a word
matches beside the one it decodes to, and the obligations about them. -/
namespace Sys2Proof

/-! ### The two formats that spell one row -/

/-- The word of the instruction a command word decodes to is that word (R82, R84). -/
theorem encode_decodeCmd (w : CmdWord) : encode (decodeCmd w) = [.cmd w] := by
  obtain ⟨op, ch, rfl⟩ : ∃ op ch, w = cmdWord op ch := ⟨_, _, (cmdWord_fields w).symm⟩
  rcases opcode_cases op with hop | rfl | rfl | hop
  · rw [decodeCmd_opHi ch hop, encode]
  · rw [decodeCmd_op3, encode]
  · rw [decodeCmd_op4, encode]
  · by_cases hz : ch = 0x00#8
    · rcases hop with rfl | rfl | rfl | rfl | rfl | rfl <;> simp [hz, encode]
    · rcases hop with rfl | rfl | rfl | rfl | rfl | rfl <;> simp [hz, encode]

theorem wf_decodeCmd (w : CmdWord) : (decodeCmd w).wf = true := by
  obtain ⟨op, ch, rfl⟩ : ∃ op ch, w = cmdWord op ch := ⟨_, _, (cmdWord_fields w).symm⟩
  rcases opcode_cases op with hop | rfl | rfl | hop
  · rw [decodeCmd_opHi ch hop]
    exact decide_eq_true hop
  · rw [decodeCmd_op3, Instr.wf]
  · rw [decodeCmd_op4, Instr.wf]
  · by_cases hz : ch = 0x00#8
    · rcases hop with rfl | rfl | rfl | rfl | rfl | rfl <;> simp [hz, Instr.wf]
    · rcases hop with rfl | rfl | rfl | rfl | rfl | rfl <;> simp [hz, Instr.wf, reservedChar]

/-- The four selector words (R87). -/
theorem selector_cases (v : BitVec 2) : v = 0b00#2 ∨ v = 0b01#2 ∨ v = 0b10#2 ∨ v = 0b11#2 := by revert v; decide

theorem encode_decodeKsel (g : BitVec 4) (v : BitVec 2) : encode (decodeKsel g v) = [.ksel g v] := by
  rcases selector_cases v with rfl | rfl | rfl | rfl <;> rfl

theorem wf_decodeKsel (g : BitVec 4) (v : BitVec 2) : (decodeKsel g v).wf = groupOk g := by
  rcases selector_cases v with rfl | rfl | rfl | rfl <;> rfl

theorem decode_ksel {g : BitVec 4} (h : groupOk g = true) (v : BitVec 2) : decode (.ksel g v) = .ok (decodeKsel g v) :=
  if_pos h

/-! ### The control words -/

/-- The round step of direction d at round r (R146). -/
def roundstep : Direction → BitVec 6 → Instr
  | .encrypt, r => .roundstepEnc r
  | .decrypt, r => .roundstepDec r

/-- The rows a round's control word matches beside its round step: the stages, the round function and the operation of
its direction (R81, log entry 6). -/
def functionRowsOf : Direction → BitVec 6 → List Instr
  | .encrypt, r => [.mix .encrypt r, .fp r, .kp .encrypt r, .sb r, .encr r, .encrypt]
  | .decrypt, r => [.mix .decrypt r, .fpi r, .kp .decrypt r, .sbi r, .decr r, .decrypt]

theorem decode_busyWord {r : BitVec 6} (d : Direction) (h : roundOk r = true) :
    decode (.ctrl (busyWord d r)) = .ok (roundstep d r) := by
  cases d with
  | encrypt => exact decode_busyWord_encrypt h
  | decrypt => exact decode_busyWord_decrypt h

theorem rowsOf_busyWord {r : BitVec 6} (d : Direction) (h : roundOk r = true) :
    rowsOf (.ctrl (busyWord d r)) = roundstep d r :: functionRowsOf d r := by
  cases d with
  | encrypt => exact rowsOf_busyWord_encrypt h
  | decrypt => exact rowsOf_busyWord_decrypt h

theorem encode_roundstep (d : Direction) (r : BitVec 6) : encode (roundstep d r) = [.ctrl (busyWord d r)] := by
  cases d <;> rfl

theorem wf_roundstep (d : Direction) (r : BitVec 6) : (roundstep d r).wf = roundOk r := by cases d <;> rfl

/-- A control word whose `ST` field is BUSY is its other two fields. -/
theorem busyWord_fields {w : CtrlWord} (h : ctrlSt w = 0b01#2) : w = busyWord (ctrlDir w) (ctrlRnd w) := by
  revert w; decide

/-- What is decoded from a control word is the round step of its fields. -/
theorem decodeCtrl_ok {w : CtrlWord} {i : Instr} (h : decodeCtrl w = .ok i) :
    ∃ d r, roundOk r = true ∧ w = busyWord d r ∧ i = roundstep d r := by
  unfold decodeCtrl at h
  split_ifs at h with hst hr
  refine ⟨ctrlDir w, ctrlRnd w, hr, busyWord_fields hst, ?_⟩
  split at h <;> rename_i hd <;> rw [hd] <;> exact (Except.ok.inj h).symm

/-- Everything a word can decode to, by format. -/
theorem decode_ok_cases {c : Code} {i : Instr} (h : decode c = .ok i) :
    (∃ w, c = .cmd w ∧ i = decodeCmd w) ∨
    (∃ g v, groupOk g = true ∧ c = .ksel g v ∧ i = decodeKsel g v) ∨
    (∃ d r, roundOk r = true ∧ c = .ctrl (busyWord d r) ∧ i = roundstep d r) := by
  cases c with
  | cmd w => exact .inl ⟨w, rfl, (Except.ok.inj h).symm⟩
  | ksel g v =>
    by_cases hg : groupOk g = true
    · exact .inr (.inl ⟨g, v, hg, rfl, Except.ok.inj (h.symm.trans (decode_ksel hg v))⟩)
    · rw [decode, if_neg hg] at h
      cases h
  | ctrl w =>
    obtain ⟨d, r, hr, rfl, hi⟩ := decodeCtrl_ok h
    exact .inr (.inr ⟨d, r, hr, rfl, hi⟩)

/-- What a word decodes to is well formed and has that word and no other. -/
theorem wf_and_encode_of_decode {c : Code} {i : Instr} (h : decode c = .ok i) : i.wf = true ∧ encode i = [c] := by
  rcases decode_ok_cases h with ⟨w, rfl, rfl⟩ | ⟨g, v, hg, rfl, rfl⟩ | ⟨d, r, hr, rfl, rfl⟩
  · exact ⟨wf_decodeCmd w, encode_decodeCmd w⟩
  · exact ⟨(wf_decodeKsel g v).trans hg, encode_decodeKsel g v⟩
  · exact ⟨(wf_roundstep d r).trans hr, encode_roundstep d r⟩

/-! ### The rows a word matches -/

/-- A round's control word is one of the 56 of its operation (R141, R142). -/
theorem mem_operationWords {r : BitVec 6} (d : Direction) (h : roundOk r = true) :
    .ctrl (busyWord d r) ∈ operationWords d := by
  have hr : r.toNat < 56 := of_decide_eq_true h
  cases d with
  | encrypt => exact List.mem_map.mpr ⟨r.toNat, List.mem_range.mpr hr, by rw [BitVec.ofNat_toNat, BitVec.setWidth_eq]⟩
  | decrypt =>
    refine List.mem_map.mpr ⟨55 - r.toNat, List.mem_range.mpr (by omega), ?_⟩
    rw [show 55 - (55 - r.toNat) = r.toNat by omega, BitVec.ofNat_toNat, BitVec.setWidth_eq]

/-- A row's word is one of the words of each of the functions that act in its round (log entry 6). -/
theorem mem_encode_of_mem_functionRowsOf {d : Direction} {r : BitVec 6} {i : Instr} (hr : roundOk r = true)
    (h : i ∈ functionRowsOf d r) : .ctrl (busyWord d r) ∈ encode i := by
  have hop := mem_operationWords d hr
  cases d with
  | encrypt =>
    simp only [functionRowsOf, List.mem_cons, List.not_mem_nil, or_false] at h
    rcases h with rfl | rfl | rfl | rfl | rfl | rfl
    case inr.inr.inr.inr.inr => exact hop
    all_goals exact List.mem_singleton_self _
  | decrypt =>
    simp only [functionRowsOf, List.mem_cons, List.not_mem_nil, or_false] at h
    rcases h with rfl | rfl | rfl | rfl | rfl | rfl
    case inr.inr.inr.inr.inr => exact hop
    all_goals exact List.mem_singleton_self _

theorem functionRow_of_mem_functionRowsOf {d : Direction} {r : BitVec 6} {i : Instr} (h : i ∈ functionRowsOf d r) :
    Machine.functionRow i = true := by
  have hall : ∀ j ∈ functionRowsOf d r, Machine.functionRow j = true := by
    cases d <;> simp [functionRowsOf, Machine.functionRow]
  exact hall i h

/-- A word that decodes to no round step matches one row. -/
theorem rowsOf_of_decode {c : Code} {i : Instr} (h : decode c = .ok i) (hne : ∀ d r, i ≠ roundstep d r) :
    rowsOf c = [i] := by
  unfold rowsOf
  rw [h]
  cases i with
  | roundstepEnc r => exact absurd rfl (hne .encrypt r)
  | roundstepDec r => exact absurd rfl (hne .decrypt r)
  | _ => rfl

theorem decodeCmd_ne_roundstep (w : CmdWord) (d : Direction) (r : BitVec 6) : decodeCmd w ≠ roundstep d r := by
  intro h
  have he := encode_decodeCmd w
  rw [h, encode_roundstep] at he
  cases he

theorem rowsOf_cmd (w : CmdWord) : rowsOf (.cmd w) = [decodeCmd w] :=
  rowsOf_of_decode (decode_cmd w) (decodeCmd_ne_roundstep w)

/-- A row that a word matches is the one it decodes to, or a function that acts in the round of a control word. -/
theorem mem_rowsOf_cases {c : Code} {i : Instr} (h : i ∈ rowsOf c) :
    decode c = .ok i ∨ ∃ d r, roundOk r = true ∧ c = .ctrl (busyWord d r) ∧ i ∈ functionRowsOf d r := by
  cases hc : decode c with
  | error e =>
    rw [rowsOf, hc] at h
    cases h
  | ok j =>
    by_cases hne : ∀ d r, j ≠ roundstep d r
    · rw [rowsOf_of_decode hc hne, List.mem_singleton] at h
      exact .inl (by rw [h])
    · push Not at hne
      obtain ⟨d, r, rfl⟩ := hne
      obtain ⟨hr, hw⟩ := wf_and_encode_of_decode hc
      rw [wf_roundstep] at hr
      obtain rfl : .ctrl (busyWord d r) = c := List.singleton_inj.mp ((encode_roundstep d r).symm.trans hw)
      rw [rowsOf_busyWord d hr, List.mem_cons] at h
      rcases h with rfl | h
      · exact .inl rfl
      · exact .inr ⟨d, r, hr, rfl, h⟩

/-- A word that matches a row is one of the row's words. -/
theorem mem_encode_of_mem_rowsOf {c : Code} {i : Instr} (h : i ∈ rowsOf c) : c ∈ encode i := by
  rcases mem_rowsOf_cases h with hc | ⟨d, r, hr, rfl, hi⟩
  · rw [(wf_and_encode_of_decode hc).2]
    exact List.mem_singleton_self c
  · exact mem_encode_of_mem_functionRowsOf hr hi

/-- The family `RoundTrip` covers every row of the opcode table. -/
theorem roundTrip (i : Instr) : Laws.RoundTrip.Statement i := by
  cases i with
  | nop => exact Laws.RoundTrip.nop
  | clrb => exact Laws.RoundTrip.clrb
  | clrk => exact Laws.RoundTrip.clrk
  | pushb ch => exact Laws.RoundTrip.pushb ch
  | pushk ch => exact Laws.RoundTrip.pushk ch
  | enc => exact Laws.RoundTrip.enc
  | dec => exact Laws.RoundTrip.dec
  | ack => exact Laws.RoundTrip.ack
  | reserved0 ch => exact Laws.RoundTrip.reserved0 ch
  | reserved1 ch => exact Laws.RoundTrip.reserved1 ch
  | reserved2 ch => exact Laws.RoundTrip.reserved2 ch
  | reserved5 ch => exact Laws.RoundTrip.reserved5 ch
  | reserved6 ch => exact Laws.RoundTrip.reserved6 ch
  | reserved7 ch => exact Laws.RoundTrip.reserved7 ch
  | reservedHi op ch => exact Laws.RoundTrip.reservedHi op ch
  | selId g => exact Laws.RoundTrip.selId g
  | selSwap01 g => exact Laws.RoundTrip.selSwap01 g
  | selSwap12 g => exact Laws.RoundTrip.selSwap12 g
  | selRev g => exact Laws.RoundTrip.selRev g
  | roundstepEnc r => exact Laws.RoundTrip.roundstepEnc r
  | roundstepDec r => exact Laws.RoundTrip.roundstepDec r
  | mix d r => exact Laws.RoundTrip.mix d r
  | fp r => exact Laws.RoundTrip.fp r
  | fpi r => exact Laws.RoundTrip.fpi r
  | kp d r => exact Laws.RoundTrip.kp d r
  | sb r => exact Laws.RoundTrip.sb r
  | sbi r => exact Laws.RoundTrip.sbi r
  | encr r => exact Laws.RoundTrip.encr r
  | decr r => exact Laws.RoundTrip.decr r
  | encrypt => exact Laws.RoundTrip.encrypt
  | decrypt => exact Laws.RoundTrip.decrypt

/-- The words of a well-formed instruction are the words that match its row. -/
theorem mem_encode_iff_mem_rowsOf {c : Code} {i : Instr} (h : i.wf = true) : c ∈ encode i ↔ i ∈ rowsOf c :=
  ⟨(roundTrip i h).2 c, mem_encode_of_mem_rowsOf⟩

/-- Only the functions have other than one word. -/
theorem encode_eq_singleton {i : Instr} (h : Machine.functionRow i = false) : ∃ c, encode i = [c] := by
  cases i with
  | mix | fp | fpi | kp | sb | sbi | encr | decr | encrypt | decrypt => cases h
  | _ => exact ⟨_, rfl⟩

/-- A row that is no function is what each word that matches it decodes to. -/
theorem decode_of_mem_rowsOf {c : Code} {i : Instr} (h : i ∈ rowsOf c) (hf : Machine.functionRow i = false) :
    decode c = .ok i := by
  rcases mem_rowsOf_cases h with hc | ⟨d, r, -, -, hi⟩
  · exact hc
  · rw [functionRow_of_mem_functionRowsOf hi] at hf
    cases hf

/-! ### The obligations -/

/-- Settles O33: a word's rows are the one it decodes to and the functions of its round, and each of them is encoded with
that word; the converse is the family `RoundTrip`. -/
theorem decodeAndEncodeAgree : Obligations.DecodeAndEncodeAgree := by
  unfold Obligations.DecodeAndEncodeAgree
  refine ⟨fun i c hi => mem_encode_iff_mem_rowsOf hi, fun i hi hf => ?oneWord, fun c i h => wf_and_encode_of_decode h⟩
  case oneWord =>
    obtain ⟨c, hc⟩ := encode_eq_singleton hf
    have hrow : i ∈ rowsOf c := (roundTrip i hi).2 c (by rw [hc]; exact List.mem_singleton_self c)
    exact ⟨c, hc, decode_of_mem_rowsOf hrow hf⟩

/-- Settles O34: a command word matches one row. -/
theorem everyCommandWordHasOneInstruction : Obligations.EveryCommandWordHasOneInstruction := by
  unfold Obligations.EveryCommandWordHasOneInstruction
  intro w i
  constructor
  · rintro ⟨hi, hw⟩
    rwa [mem_encode_iff_mem_rowsOf hi, rowsOf_cmd, List.mem_singleton] at hw
  · rintro rfl
    exact ⟨wf_decodeCmd w, by rw [encode_decodeCmd]; exact List.mem_singleton_self _⟩

/-- Settles O35: the fifteen words of the table are evaluated. -/
theorem workedEncodingsDecode : Obligations.WorkedEncodingsDecode := by
  unfold Obligations.WorkedEncodingsDecode
  decide

/-- Settles O36: at a group of the Block a selector word decodes by the table of R87. -/
theorem selectorWordsDecode : Obligations.SelectorWordsDecode := by
  unfold Obligations.SelectorWordsDecode
  intro g hg
  have hok : groupOk g = true := decide_eq_true hg
  exact ⟨decode_ksel hok _, decode_ksel hok _, decode_ksel hok _, decode_ksel hok _⟩

end Sys2Proof

/-! SUPPORT. The host commands with an effect of their own (43_host_commands.md R163 to R168): the pushes, CLRK, the valid
starts and ACK; what every command word does in DONE and ERROR; and the obligations about them. -/
namespace Sys2Proof.Machine

/-! ### The pushes -/

theorem exec_pushb (ch : Character) (s : State) : exec (.pushb ch) s = .next (whenIdle s (appendBlock ch)) := rfl

theorem exec_pushk (ch : Character) (s : State) : exec (.pushk ch) s = .next (whenIdle s (appendKey ch)) := rfl

/-- Only `'1'` stores a 1; an invalid character stores 0 (R163, decision D20). -/
theorem storedBit_eq (ch : Character) : storedBit ch = (ch == 0x31#8) := by
  rcases charBit_cases ch with ⟨rfl, -⟩ | ⟨rfl, -⟩ | ⟨-, h1, hc⟩
  · rfl
  · rfl
  · rw [storedBit, hc, beq_eq_false_iff_ne.mpr h1, Option.getD_none]

/-- The characters that set the flag are those other than `'0'` and `'1'` (R83). -/
theorem stickyBad_eq (bad : Bool) (ch : Character) : stickyBad bad ch = (bad || (ch != 0x30#8 && ch != 0x31#8)) := by
  have hnone : (charBit ch).isNone = (ch != 0x30#8 && ch != 0x31#8) := by
    rcases charBit_cases ch with ⟨rfl, -⟩ | ⟨rfl, -⟩ | ⟨h0, h1, hc⟩
    · rfl
    · rfl
    · rw [hc, bne_iff_ne.mpr h0, bne_iff_ne.mpr h1, Bool.and_self, Option.isNone_none]
  rw [stickyBad, hnone]

section
variable (ch : Character) {s : State}

theorem appendBlock_of_lt (h : s.BLEN.toNat < 27) : appendBlock ch s = { s with
    BLK := setPos s.BLK s.BLEN.toNat (storedBit ch), BBAD := stickyBad s.BBAD ch, BLEN := s.BLEN + 1#5 } := if_pos h

theorem appendBlock_of_full (h : s.BLEN = 27#5) : appendBlock ch s = { s with BLEN := 28#5 } := by
  simp [appendBlock, h]

theorem appendBlock_of_tooLong (h : 28 ≤ s.BLEN.toNat) : appendBlock ch s = s := by
  have hne : s.BLEN ≠ 27#5 := fun e => absurd h (by rw [e]; decide)
  rw [appendBlock, if_neg (by omega), if_neg hne]

theorem appendKey_of_lt (h : s.KLEN.toNat < 2520) : appendKey ch s = { s with
    KEY := Memory.write s.KEY s.KLEN.toNat (storedBit ch), KBAD := stickyBad s.KBAD ch, KLEN := s.KLEN + 1#12 } :=
  if_pos h

theorem appendKey_of_full (h : 2520 ≤ s.KLEN.toNat) : appendKey ch s = s := if_neg (Nat.not_lt.mpr h)

end

/-! ### CLRK, the valid starts and ACK -/

theorem exec_clrk (s : State) : exec .clrk s = .next (whenIdle s clearKey) := rfl

/-- A block and a key that pass both tests of R170 start an operation. -/
theorem startOrRaise_of_full {s : State} (d : Direction) (hblen : s.BLEN = 27#5) (hbbad : s.BBAD = false)
    (hklen : s.KLEN = 2520#12) (hkbad : s.KBAD = false) : startOrRaise d s = start d s :=
  startOrRaise_of_valid d (blockValid_iff.mpr ⟨hblen, hbbad⟩) (keyValid_iff.mpr ⟨hklen, hkbad⟩)

section
variable {s : State}

theorem exec_ack_done (h : s.ST = .done) : exec .ack s = .next (releaseResult s) := by rw [exec, execAck, h]

theorem exec_ack_error (h : s.ST = .error) : exec .ack s = .next (returnFromError s) := by rw [exec, execAck, h]

theorem exec_ack_idle (h : s.ST = .idle) : exec .ack s = .next s := by rw [exec, execAck, h]

theorem exec_ack_busy (h : s.ST = .busy) : exec .ack s = .next s := by rw [exec, execAck, h]

end

/-! ### Every command word -/

/-- No command ends in a fault or a refusal. -/
theorem exec_command_total (w : CmdWord) (s : State) : ∃ t, exec (decodeCmd w) s = .next t := by
  rcases decodeCmd_cases w with ⟨ch, e, -⟩ | ⟨ch, e, -⟩ | ⟨e, -⟩ | ⟨e, -⟩ | ⟨e, -⟩ | ⟨e, -⟩ | ⟨e, -⟩ | ⟨e, -⟩ |
    ⟨ch, -, e⟩
  · exact ⟨_, e ▸ exec_pushb ch s⟩
  · exact ⟨_, e ▸ exec_pushk ch s⟩
  · exact ⟨_, e ▸ exec_nop s⟩
  · exact ⟨_, e ▸ exec_clrb s⟩
  · exact ⟨_, e ▸ exec_clrk s⟩
  · exact ⟨_, e ▸ exec_enc s⟩
  · exact ⟨_, e ▸ exec_dec s⟩
  · rw [e]
    cases hs : s.ST with
    | idle => exact ⟨_, exec_ack_idle hs⟩
    | busy => exact ⟨_, exec_ack_busy hs⟩
    | done => exact ⟨_, exec_ack_done hs⟩
    | error => exact ⟨_, exec_ack_error hs⟩
  · have hr : reservedRow (decodeCmd w) = true := by rcases e with e | e | e | e | e | e | e <;> rw [e] <;> rfl
    exact ⟨_, exec_of_reservedRow hr s⟩

/-- DONE and ERROR accept one word, ACK (R160). -/
theorem exec_command_of_done_or_error {w : CmdWord} {s : State} (hst : s.ST = .done ∨ s.ST = .error)
    (hw : w ≠ 0x700#12) : exec (decodeCmd w) s = .next s := by
  have hidle : s.ST ≠ .idle := by rcases hst with h | h <;> rw [h] <;> decide
  obtain ⟨t, ht⟩ := exec_command_total w s
  rcases exec_command_cases ht with rfl | ⟨hi, -⟩ | ⟨hi, -⟩ | ⟨hi, -⟩ | ⟨hi, -⟩ | ⟨hi, -⟩ | ⟨hi, -⟩ | ⟨-, hack, -⟩ |
    ⟨-, hack, -⟩ | ⟨hi, -⟩
  · exact ht
  all_goals contradiction

/-- A step from DONE or ERROR that samples neither a reset nor ACK only consumes its input (R160). -/
theorem step_of_done_or_error {s : State} (hrst : (sampled s).rst = false) (hst : s.ST = .done ∨ s.ST = .error)
    (hw : (sampled s).cmd ≠ 0x700#12) : step s = .next (consume s) := by
  have hbusy : s.ST ≠ .busy := by rcases hst with h | h <;> rw [h] <;> decide
  rw [step_host hrst hbusy]
  exact exec_command_of_done_or_error (s := consume s) hst hw

/-! ### The obligations -/

/-- Settles O3: PUSHB in IDLE is `appendBlock`, by its three fill levels. -/
theorem pushbAppendsCharacter : Obligations.PushbAppendsCharacter := by
  unfold Obligations.PushbAppendsCharacter
  intro s ch
  refine ⟨fun hs hlen => ⟨setPos s.BLK s.BLEN.toNat (storedBit ch), ?stored, ?written, fun p hp hne => ?kept⟩,
    fun hs hlen => ?full, fun hs hlen => ?tooLong, fun hs => ?dropped⟩
  case stored => rw [exec_pushb, whenIdle_idle hs, appendBlock_of_lt ch hlen, stickyBad_eq]
  case written => rw [pos_setPos _ _ hlen, if_pos rfl, storedBit_eq]
  case kept => rw [pos_setPos _ _ hp, if_neg hne]
  case full => rw [exec_pushb, whenIdle_idle hs, appendBlock_of_full ch hlen]
  case tooLong => rw [exec_pushb, whenIdle_idle hs, appendBlock_of_tooLong ch hlen]
  case dropped => rw [exec_pushb, whenIdle_dropped hs]

/-- Settles O4: PUSHK in IDLE is `appendKey`, by its two fill levels, and a write of one cell keeps the others. -/
theorem pushkAppendsCharacter : Obligations.PushkAppendsCharacter := by
  unfold Obligations.PushkAppendsCharacter
  intro s ch
  refine ⟨fun hs hlen => ⟨Memory.write s.KEY s.KLEN.toNat (storedBit ch), ?stored, ?written, fun a hne => ?kept⟩,
    fun hs hlen => ?full, fun hs => ?dropped⟩
  case stored => rw [exec_pushk, whenIdle_idle hs, appendKey_of_lt ch hlen, stickyBad_eq]
  case written => rw [read_write_same, storedBit_eq]
  case kept => exact read_write_ne hne
  case full => rw [exec_pushk, whenIdle_idle hs, appendKey_of_full ch hlen]
  case dropped => rw [exec_pushk, whenIdle_dropped hs]

/-- Settles O5: CLRK is `clearKey` in IDLE and nothing elsewhere. -/
theorem clrkEmptiesKey : Obligations.ClrkEmptiesKey := by
  unfold Obligations.ClrkEmptiesKey
  refine ⟨by decide, fun s hs => ⟨clearKey s, ?idle, rfl, fun a => by rw [clearKey_KEY]⟩, fun s hs => ?dropped⟩
  case idle => rw [exec_clrk, whenIdle_idle hs]
  case dropped => rw [exec_clrk, whenIdle_dropped hs]

/-- Settles O6: a valid block and key make ENC `start .encrypt`. -/
theorem encStartsEncryption : Obligations.EncStartsEncryption := by
  unfold Obligations.EncStartsEncryption
  refine ⟨fun s hs hblen hbbad hklen hkbad => ?started, fun s hs => ?dropped⟩
  case started => rw [exec_enc_idle hs, startOrRaise_of_full .encrypt hblen hbbad hklen hkbad, start, firstRound]
  case dropped => rw [exec_enc, whenIdle_dropped hs]

/-- Settles O7: a valid block and key make DEC `start .decrypt`. -/
theorem decStartsDecryption : Obligations.DecStartsDecryption := by
  unfold Obligations.DecStartsDecryption
  refine ⟨fun s hs hblen hbbad hklen hkbad => ?started, fun s hs => ?dropped⟩
  case started => rw [exec_dec_idle hs, startOrRaise_of_full .decrypt hblen hbbad hklen hkbad, start, firstRound]
  case dropped => rw [exec_dec, whenIdle_dropped hs]

/-- Settles O10, by controller state. -/
theorem ackAcknowledges : Obligations.AckAcknowledges := by
  unfold Obligations.AckAcknowledges
  exact fun s => ⟨exec_ack_done, exec_ack_error, exec_ack_idle, exec_ack_busy⟩

/-- Settles O12: no command word but ACK has an effect in DONE or ERROR. -/
theorem doneAndErrorDropAllButAck : Obligations.DoneAndErrorDropAllButAck := by
  unfold Obligations.DoneAndErrorDropAllButAck
  exact fun s hrst hst hw => step_of_done_or_error hrst hst hw

end Sys2Proof.Machine

/-! SUPPORT. The invariants of 10_state.md R36: each operation on the state keeps them, so every step does; under them a
step always answers, so every run from reset goes on; and the obligations about them. -/
namespace Sys2Proof.Machine

/-! ### Counters that move by one -/

theorem toNat_BLEN_succ {b : BitVec 5} (h : b.toNat < 27) : (b + 1#5).toNat = b.toNat + 1 := by
  rw [BitVec.toNat_add, BitVec.toNat_ofNat]; omega

theorem toNat_KLEN_succ {k : BitVec 12} (h : k.toNat < 2520) : (k + 1#12).toNat = k.toNat + 1 := by
  rw [BitVec.toNat_add, BitVec.toNat_ofNat]; omega

theorem toNat_RND_succ {r : BitVec 6} (h : r.toNat < 63) : (r + 1#6).toNat = r.toNat + 1 := by
  rw [BitVec.toNat_add, BitVec.toNat_ofNat]; omega

theorem toNat_RND_pred {r : BitVec 6} (h : r ≠ 0#6) : (r - 1#6).toNat = r.toNat - 1 := by
  have : r.toNat ≠ 0 := fun e => h (BitVec.eq_of_toNat_eq e)
  rw [BitVec.toNat_sub, BitVec.toNat_ofNat]; omega

/-! ### The key cells under the invariants -/

/-- Writing the next cell of the key makes one more cell written, and leaves none unwritten. -/
theorem keyWritten_write {m : Memory} {n : Nat} (b : Bit) (h : keyWritten m 0 n) :
    keyWritten (Memory.write m n b) 0 (n + 1) := by
  intro a _ ha
  by_cases hn : a = n
  · rw [hn, read_write_same]; rfl
  · rw [read_write_ne hn]; exact h a (Nat.zero_le a) (by omega)

theorem keyWritten_mono {m : Memory} {a b k n : Nat} (h : keyWritten m a n) (hlo : a ≤ b) (hhi : b + k ≤ a + n) :
    keyWritten m b k := fun x hb hx => h x (by omega) (by omega)

/-! ### The operations -/

/-- At reset every counter is 0, no cell is counted and none is listed. -/
theorem stateInv_reset : StateInv State.reset where
  blen_le := by decide
  klen_le := by decide
  rnd_le := by decide
  err_iff := by decide
  running := by decide
  key_written := fun a _ ha => absurd ha (Nat.not_lt_zero a)
  blk_tail := fun _ p _ _ => pos_zero 27 p
  key_wf := nil_wf

namespace StateInv
variable {s : State}

theorem ERR_none (h : StateInv s) (hst : s.ST ≠ .error) : s.ERR = .none :=
  not_not.mp fun hne => hst (h.err_iff.mp hne)

/-- The engine's invariants say nothing of what the host will present. -/
theorem withInputs (h : StateInv s) (ins : List HostInput) : StateInv (withInputs s ins) := { h with }

theorem consume (h : StateInv s) : StateInv (consume s) := h.withInputs s.inputs.tail

/-- A reset step keeps the key cells, and with no cell counted any canonical store will do. -/
theorem resetState (h : StateInv s) : StateInv (resetState s) :=
  { stateInv_reset with
    key_written := fun a _ ha => absurd ha (Nat.not_lt_zero a)
    key_wf := h.key_wf }

theorem clearBlock (h : StateInv s) (hs : s.ST = .idle) : StateInv (clearBlock s) :=
  { h with
    blen_le := Nat.zero_le _
    running := by simp [hs]
    blk_tail := fun _ p _ _ => pos_zero 27 p }

theorem clearKey (h : StateInv s) (hs : s.ST = .idle) : StateInv (clearKey s) :=
  { h with
    klen_le := Nat.zero_le _
    running := by simp [hs]
    key_written := fun a _ ha => absurd ha (Nat.not_lt_zero a) }

theorem appendBlock (h : StateInv s) (hs : s.ST = .idle) (ch : Character) : StateInv (appendBlock ch s) := by
  rcases appendBlock_cases ch s with ⟨hlen, e⟩ | ⟨-, e⟩ | ⟨-, e⟩
  · have hsucc := toNat_BLEN_succ hlen
    rw [e]
    refine { h with blen_le := ?_, running := by simp [hs], blk_tail := fun _ p hp hp27 => ?_ }
    · rw [hsucc]; omega
    · rw [hsucc] at hp
      rw [pos_setPos _ _ hp27, if_neg (by omega)]
      exact h.blk_tail (.inl hs) p (by omega) hp27
  · rw [e]
    exact { h with
      blen_le := le_refl 28
      running := by simp [hs]
      blk_tail := fun _ p hp hp27 => absurd (lt_of_le_of_lt hp hp27) (lt_irrefl 27) }
  · rwa [e]

theorem appendKey (h : StateInv s) (hs : s.ST = .idle) (ch : Character) : StateInv (appendKey ch s) := by
  rcases appendKey_cases ch s with ⟨hlen, e⟩ | ⟨-, e⟩
  · have hsucc := toNat_KLEN_succ hlen
    rw [e]
    refine { h with klen_le := ?_, running := by simp [hs], key_written := ?_, key_wf := write_wf h.key_wf hlen }
    · rw [hsucc]; exact hlen
    · rw [hsucc]; exact keyWritten_write _ h.key_written
  · rwa [e]

theorem raise (h : StateInv s) (hs : s.ST = .idle) {e : ErrCode} (he : e ≠ .none) : StateInv (raise e s) :=
  { h with
    err_iff := iff_of_true he rfl
    running := by simp
    blk_tail := fun _ => h.blk_tail (.inl hs) }

theorem returnFromError (h : StateInv s) (hs : s.ST = .error) : StateInv (returnFromError s) :=
  { h with
    err_iff := by simp
    running := by simp
    blk_tail := fun _ => h.blk_tail (.inr hs) }

theorem releaseResult (h : StateInv s) (hs : s.ST = .done) : StateInv (releaseResult s) :=
  { h with
    blen_le := Nat.zero_le _
    err_iff := by simp [h.ERR_none (by simp [hs])]
    running := by simp
    blk_tail := fun _ p _ _ => pos_zero 27 p }

theorem start (h : StateInv s) (hs : s.ST = .idle) (d : Direction) (hb : blockValid s = true) (hk : keyValid s = true) :
    StateInv (start d s) := by
  obtain ⟨hblen, hbbad⟩ := blockValid_iff.mp hb
  obtain ⟨hklen, hkbad⟩ := keyValid_iff.mp hk
  exact { h with
    rnd_le := by cases d <;> simp [firstRound]
    err_iff := by simp [h.ERR_none (by simp [hs])]
    running := fun _ => ⟨hblen, hbbad, hklen, hkbad⟩
    blk_tail := by simp }

theorem startOrRaise (h : StateInv s) (hs : s.ST = .idle) (d : Direction) : StateInv (startOrRaise d s) := by
  rcases startOrRaise_cases d s with ⟨-, e⟩ | ⟨-, -, e⟩ | ⟨hb, hk, e⟩ <;> rw [e]
  · exact h.raise hs (by decide)
  · exact h.raise hs (by decide)
  · exact h.start hs d hb hk

/-- In BUSY and DONE the data register holds what the rounds left in it, whatever that is. -/
theorem setBlk (h : StateInv s) (hs : s.ST = .busy) (B : Block) : StateInv (setBlk B s) :=
  { h with blk_tail := by simp [hs] }

/-- The end of an operation changes `ST` alone (R146). -/
theorem finish (h : StateInv s) (hs : s.ST = .busy) : StateInv { s with ST := .done } :=
  { h with
    err_iff := by simp [h.ERR_none (by simp [hs])]
    running := fun _ => h.running (.inl hs)
    blk_tail := by simp }

theorem advanceEnc (h : StateInv s) (hs : s.ST = .busy) : StateInv (advanceEnc s.RND s) := by
  have hr := h.rnd_le
  rcases advanceEnc_cases s.RND s with ⟨-, e⟩ | ⟨hne, e⟩ <;> rw [e]
  · exact h.finish hs
  · have : s.RND.toNat ≠ 55 := fun e => hne (BitVec.eq_of_toNat_eq e)
    exact { h with rnd_le := by rw [toNat_RND_succ (by omega)]; omega }

theorem advanceDec (h : StateInv s) (hs : s.ST = .busy) : StateInv (advanceDec s.RND s) := by
  have hr := h.rnd_le
  rcases advanceDec_cases s.RND s with ⟨-, e⟩ | ⟨hne, e⟩ <;> rw [e]
  · exact h.finish hs
  · exact { h with rnd_le := by rw [toNat_RND_pred hne]; omega }

/-! ### The step -/

theorem exec_command (h : StateInv s) {w : CmdWord} {t : State} (ht : exec (decodeCmd w) s = .next t) : StateInv t := by
  rcases exec_command_cases ht with rfl | ⟨hs, -, rfl⟩ | ⟨hs, -, rfl⟩ | ⟨hs, ch, -, rfl⟩ | ⟨hs, ch, -, rfl⟩ |
    ⟨hs, -, rfl⟩ | ⟨hs, -, rfl⟩ | ⟨hs, -, rfl⟩ | ⟨hs, -, rfl⟩ | ⟨hs, -, rfl⟩
  · exact h
  · exact h.clearBlock hs
  · exact h.clearKey hs
  · exact h.appendBlock hs ch
  · exact h.appendKey hs ch
  · exact h.startOrRaise hs .encrypt
  · exact h.startOrRaise hs .decrypt
  · exact h.releaseResult hs
  · exact h.returnFromError hs
  · exact h.raise hs (by decide)

theorem step_busy (h : StateInv s) (hs : s.ST = .busy) {t : State} (ht : step s = .next t) : StateInv t := by
  rcases step_busy_next_cases hs ht with ⟨-, rfl⟩ | ⟨-, K27, K18, rfl⟩ | ⟨-, K27, K18, rfl⟩
  · exact h.consume.resetState
  · exact (h.consume.setBlk hs _).advanceEnc hs
  · exact (h.consume.setBlk hs _).advanceDec hs

theorem step (h : StateInv s) {t : State} (ht : step s = .next t) : StateInv t := by
  by_cases hs : s.ST = .busy
  · exact h.step_busy hs ht
  · rcases step_next_cases ht with ⟨-, rfl⟩ | ⟨hrst, -⟩
    · exact h.consume.resetState
    · rw [step_host hrst hs] at ht
      exact h.consume.exec_command ht

/-- In BUSY the whole key has been written (R36(c), R36(d)). -/
theorem keyWritten_busy (h : StateInv s) (hs : s.ST = .busy) : keyWritten s.KEY 0 2520 := by
  obtain ⟨-, -, hklen, -⟩ := h.running (.inl hs)
  have hw := h.key_written
  rwa [hklen] at hw

end StateInv

/-! ### Steps and runs that answer -/

/-- A round step answers when the cells of its window have been written. -/
theorem exec_roundstep_total {s : State} {r : BitVec 6} (d : Direction) (hr : r.toNat ≤ 55)
    (hw : keyWritten s.KEY (45 * r.toNat) 45) : ∃ t, exec (roundstep d r) s = .next t := by
  cases d with
  | encrypt =>
    obtain ⟨K27, K18, -, -, h⟩ := withRoundKey_total (Nat.lt_succ_of_le hr) _ hw
    exact ⟨_, h⟩
  | decrypt =>
    obtain ⟨K27, K18, -, -, h⟩ := withRoundKey_total (Nat.lt_succ_of_le hr) _ hw
    exact ⟨_, h⟩

/-- In BUSY a step without reset is the round step of `DIR` at `RND` (R146, R150). -/
theorem step_busy {s : State} (hrst : (sampled s).rst = false) (hst : s.ST = .busy) (hr : s.RND.toNat ≤ 55) :
    step s = exec (roundstep s.DIR s.RND) (consume s) :=
  step_of_decode hrst (by rw [fetch_busy hst]; exact decode_busyWord s.DIR (roundOk_iff.mpr hr))

theorem step_total {s : State} (h : StateInv s) : ∃ t, step s = .next t := by
  cases hrst : (sampled s).rst with
  | true => exact ⟨_, step_of_rst hrst⟩
  | false =>
    by_cases hst : s.ST = .busy
    · have hr := h.rnd_le
      rw [step_busy hrst hst hr]
      exact exec_roundstep_total (s := consume s) s.DIR hr
        (keyWritten_mono (h.keyWritten_busy hst) (Nat.zero_le _) (by omega))
    · rw [step_host hrst hst]
      exact exec_command_total _ _

/-- The invariants carry a run through any number of steps. -/
theorem run_total {s : State} (h : StateInv s) (k : Nat) : ∃ t, run k s = .next t ∧ StateInv t := by
  induction k generalizing s with
  | zero => exact ⟨s, run_zero s, h⟩
  | succ k ih =>
    obtain ⟨u, hu⟩ := step_total h
    obtain ⟨t, ht, hinv⟩ := ih (h.step hu)
    exact ⟨t, (run_succ k hu).trans ht, hinv⟩

/-! ### The obligations -/

/-- Settles O53. -/
theorem resetStateSatisfiesInvariants : Obligations.ResetStateSatisfiesInvariants := by
  unfold Obligations.ResetStateSatisfiesInvariants
  exact stateInv_reset

/-- Settles O54: a reset step, a round step and each command keep the invariants. -/
theorem stepKeepsInvariants : Obligations.StepKeepsInvariants := by
  unfold Obligations.StepKeepsInvariants
  exact fun s t h ht => h.step ht

/-- Settles O55: no command stops, and in BUSY the window of the round has been written. -/
theorem stepIsTotalUnderInvariants : Obligations.StepIsTotalUnderInvariants := by
  unfold Obligations.StepIsTotalUnderInvariants
  exact fun s h => step_total h

/-- Settles O56, by `run_total` from the reset state, whatever inputs stand in it. -/
theorem everyRunFromResetGoesOn : Obligations.EveryRunFromResetGoesOn := by
  unfold Obligations.EveryRunFromResetGoesOn
  exact fun ins k => run_total (stateInv_reset.withInputs ins) k

end Sys2Proof.Machine

/-! SUPPORT. The laws of the function level: each stage of a round (40_datapath.md), the round functions (41_round.md) and
the 56-round drivers (42_driver.md section 1); and the obligations about them. -/
namespace Sys2Proof.Machine

/-! ### MIX -/

@[simp] theorem pos_xor {n p : Nat} (A B : BitSeq n) : pos (A ^^^ B) p = (pos A p ^^ pos B p) := BitVec.getMsbD_xor

/-- MIX is the bitwise exclusive-or of the two words. -/
theorem mix_eq_xor (A K : Block) : mix A K = A ^^^ K := seq_ext fun p hp => by rw [pos_mix hp, pos_xor]

theorem mix_comm (A K : Block) : mix A K = mix K A := by rw [mix_eq_xor, mix_eq_xor, BitVec.xor_comm]

@[simp] theorem mix_mix (A K : Block) : mix (mix A K) K = A := by
  rw [mix_eq_xor, mix_eq_xor, BitVec.xor_assoc, BitVec.xor_self, BitVec.xor_zero]

@[simp] theorem mix_self (A : Block) : mix A A = ZERO27 := by rw [mix_eq_xor, BitVec.xor_self]

@[simp] theorem mix_zero (A : Block) : mix A 0#27 = A := by rw [mix_eq_xor, BitVec.xor_zero]

@[simp] theorem zero_mix (K : Block) : mix 0#27 K = K := by rw [mix_comm, mix_zero]

/-! ### FP and FPI -/

theorem perm_of_le {i : Nat} (h : i ≤ 25) : perm i = 3 * i % 26 := if_pos h

theorem pos_fp_perm {A : Block} {i : Nat} (h : i < 27) : pos (fp A) (perm i) = pos A i := by
  rw [pos_fp (perm_lt h), permInv_perm h]

theorem pos_fpi_permInv {A : Block} {j : Nat} (h : j < 27) : pos (fpi A) (permInv j) = pos A j := by
  rw [pos_fpi (permInv_lt h), perm_permInv h]

@[simp] theorem fpi_fp (A : Block) : fpi (fp A) = A := seq_ext fun i hi => by rw [pos_fpi hi, pos_fp_perm hi]

@[simp] theorem fp_fpi (A : Block) : fp (fpi A) = A := seq_ext fun j hj => by rw [pos_fp hj, pos_fpi_permInv hj]

/-- π has order three (R107(d)): `3³ = 27` is 1 modulo 26. -/
theorem permInv_permInv {i : Nat} (h : i < 27) : permInv (permInv i) = perm i := by interval_cases i <;> rfl

theorem fpi_eq_fp_fp (A : Block) : fpi A = fp (fp A) :=
  seq_ext fun i hi => by rw [pos_fpi hi, pos_fp hi, pos_fp (permInv_lt hi), permInv_permInv hi]

@[simp] theorem fp_zero : fp 0#27 = 0#27 := seq_ext fun j hj => by rw [pos_fp hj, pos_zero, pos_zero]

@[simp] theorem fpi_zero : fpi 0#27 = 0#27 := seq_ext fun i hi => by rw [pos_fpi hi, pos_zero, pos_zero]

theorem fp_xor (A B : Block) : fp (A ^^^ B) = fp A ^^^ fp B :=
  seq_ext fun j hj => by rw [pos_fp hj, pos_xor, pos_xor, pos_fp hj, pos_fp hj]

theorem fpi_xor (A B : Block) : fpi (A ^^^ B) = fpi A ^^^ fpi B :=
  seq_ext fun i hi => by rw [pos_fpi hi, pos_xor, pos_xor, pos_fpi hi, pos_fpi hi]

/-- The number of one bits of a Block, its positions taken in another order. -/
theorem countP_pos_rearranged {A B : Block} {f : Nat → Nat} (hf : ((List.range 27).map f).Perm (List.range 27))
    (hpos : ∀ p, p < 27 → pos B p = pos A (f p)) :
    (List.range 27).countP (fun p => pos B p) = (List.range 27).countP (fun p => pos A p) := by
  calc (List.range 27).countP (fun p => pos B p)
      = (List.range 27).countP (fun p => pos A (f p)) :=
        List.countP_congr fun p hp => by rw [hpos p (List.mem_range.mp hp)]
    _ = ((List.range 27).map f).countP (fun p => pos A p) := List.countP_map.symm
    _ = (List.range 27).countP (fun p => pos A p) := hf.countP_eq _

/-- The printed tables of R104 and R106 are π and its inverse. -/
theorem perm_table : (List.range 27).map perm = [0, 3, 6, 9, 12, 15, 18, 21, 24, 1, 4, 7, 10, 13, 16, 19, 22, 25, 2, 5, 8,
    11, 14, 17, 20, 23, 26] := by decide

theorem permInv_table : (List.range 27).map permInv = [0, 9, 18, 1, 10, 19, 2, 11, 20, 3, 12, 21, 4, 13, 22, 5, 14, 23, 6,
    15, 24, 7, 16, 25, 8, 17, 26] := by decide

/-- An entry of a table of f. -/
theorem eq_of_getElem?_map_range {f : Nat → Nat} {n i j : Nat} (h : ((List.range n).map f)[i]? = some j) :
    i < n ∧ f i = j := by
  obtain ⟨hi, hj⟩ := List.getElem?_eq_some_iff.mp h
  rw [List.getElem_map, List.getElem_range] at hj
  exact ⟨by simpa using hi, hj⟩

/-! ### KP -/

theorem pos_kp {A : Block} {K : SmallKeyBits} {g k : Nat} (hg : g < 9) (hk : k < 3) :
    pos (kp A K) (3 * g + k) = groupBit (shuffle (selectorAt K g) (grp A g)) k := pos_ofGroups hg hk

/-- Each ordering of R87 is its own inverse. -/
@[simp] theorem shuffle_shuffle (sel : Selector) (c : Group) : shuffle sel (shuffle sel c) = c := by cases sel <;> rfl

@[simp] theorem kp_kp (A : Block) (K : SmallKeyBits) : kp (kp A K) K = A :=
  block_ext_groups fun g hg => by rw [grp_kp hg, grp_kp hg, shuffle_shuffle]

/-- An ordering takes each bit of its output from one place, whatever the group. -/
theorem shuffle_source (sel : Selector) {k : Nat} (hk : k < 3) :
    ∃ j < 3, ∀ c, groupBit (shuffle sel c) k = groupBit c j := by
  obtain rfl | rfl | rfl : k = 0 ∨ k = 1 ∨ k = 2 := by omega
  · cases sel with
    | ident | swap12 => exact ⟨0, by decide, fun _ => rfl⟩
    | swap01 => exact ⟨1, by decide, fun _ => rfl⟩
    | rev => exact ⟨2, by decide, fun _ => rfl⟩
  · cases sel with
    | ident | rev => exact ⟨1, by decide, fun _ => rfl⟩
    | swap01 => exact ⟨0, by decide, fun _ => rfl⟩
    | swap12 => exact ⟨2, by decide, fun _ => rfl⟩
  · cases sel with
    | ident | swap01 => exact ⟨2, by decide, fun _ => rfl⟩
    | swap12 => exact ⟨1, by decide, fun _ => rfl⟩
    | rev => exact ⟨0, by decide, fun _ => rfl⟩

/-- For a fixed SmallKey, KP only moves positions. -/
theorem kp_source (K : SmallKeyBits) {p : Nat} (hp : p < 27) : ∃ q, ∀ A, pos (kp A K) p = pos A q := by
  have hk : p % 3 < 3 := Nat.mod_lt p (by decide)
  obtain ⟨j, hj, hsource⟩ := shuffle_source (selectorAt K (p / 3)) hk
  refine ⟨3 * (p / 3) + j, fun A => ?_⟩
  calc pos (kp A K) p = pos (kp A K) (3 * (p / 3) + p % 3) := by rw [Nat.div_add_mod]
    _ = groupBit (shuffle (selectorAt K (p / 3)) (grp A (p / 3))) (p % 3) := pos_kp (by omega) hk
    _ = pos A (3 * (p / 3) + j) := by rw [hsource, groupBit_grp hj]

theorem kp_xor (A B : Block) (K : SmallKeyBits) : kp (A ^^^ B) K = kp A K ^^^ kp B K :=
  seq_ext fun p hp => by
    obtain ⟨q, hq⟩ := kp_source K hp
    rw [pos_xor, hq, hq, hq, pos_xor]

@[simp] theorem kp_zero (K : SmallKeyBits) : kp 0#27 K = 0#27 :=
  seq_ext fun p hp => by
    obtain ⟨q, hq⟩ := kp_source K hp
    rw [hq, pos_zero, pos_zero]

/-- The zero SmallKey selects the identity in every group. -/
@[simp] theorem kp_zeroKey (A : Block) : kp A 0#18 = A :=
  block_ext_groups fun g hg => by rw [grp_kp hg, selectorAt, pos_zero, pos_zero]; rfl

/-- The multiplexers of R109: output bit k of a group by the number of its selector. -/
theorem shuffle_multiplexer (s0 s1 : Bit) (c : Group) :
    some (shuffle (selectorOf s0 s1) c).c0 = [c.c0, c.c1, c.c0, c.c2][2 * s0.toNat + s1.toNat]? ∧
    some (shuffle (selectorOf s0 s1) c).c1 = [c.c1, c.c0, c.c2, c.c1][2 * s0.toNat + s1.toNat]? ∧
    some (shuffle (selectorOf s0 s1) c).c2 = [c.c2, c.c2, c.c1, c.c0][2 * s0.toNat + s1.toNat]? := by
  cases s0 <;> cases s1 <;> exact ⟨rfl, rfl, rfl⟩

/-- The 32-case table of R109. -/
theorem gval_shuffle_table : ∀ s0 s1 c0 c1 c2 : Bit, some (gval (shuffle (selectorOf s0 s1) ⟨c0, c1, c2⟩)) =
    ([0, 1, 2, 3, 4, 5, 6, 7, 0, 1, 4, 5, 2, 3, 6, 7, 0, 2, 1, 3, 4, 6, 5, 7, 0, 4, 2, 6, 1, 5, 3, 7] :
      List Nat)[8 * (2 * s0.toNat + s1.toNat) + gval ⟨c0, c1, c2⟩]? := by decide

/-! ### SB and SBI -/

theorem gval_lt (c : Group) : gval c < 8 := by
  have h0 := c.c0.toNat_lt
  have h1 := c.c1.toNat_lt
  have h2 := c.c2.toNat_lt
  rw [gval]; omega

@[simp] theorem gval_groupOfVal {w : Nat} (h : w < 8) : gval (groupOfVal w) = w := by interval_cases w <;> rfl

/-- A table of eight group values replaces a group's number by its entry (R114). -/
theorem gval_substitute {table : List Nat} (hlen : table.length = 8) (hval : ∀ v ∈ table, v < 8) (c : Group) :
    some (gval (substitute table c)) = table[gval c]? := by
  have hc : gval c < table.length := hlen ▸ gval_lt c
  rw [substitute, List.getD_eq_getElem _ _ hc, gval_groupOfVal (hval _ (List.getElem_mem hc)), List.getElem?_eq_getElem hc]

@[simp] theorem substitute_inv_sbox (c : Group) : substitute sboxInvTable (substitute sboxTable c) = c := by
  obtain ⟨c0, c1, c2⟩ := c
  revert c0 c1 c2; decide

@[simp] theorem substitute_sbox_inv (c : Group) : substitute sboxTable (substitute sboxInvTable c) = c := by
  obtain ⟨c0, c1, c2⟩ := c
  revert c0 c1 c2; decide

@[simp] theorem sbi_sb (A : Block) : sbi (sb A) = A :=
  block_ext_groups fun g hg => by rw [grp_sbi hg, grp_sb hg, substitute_inv_sbox]

@[simp] theorem sb_sbi (A : Block) : sb (sbi A) = A :=
  block_ext_groups fun g hg => by rw [grp_sb hg, grp_sbi hg, substitute_sbox_inv]

theorem grp_zero (g : Nat) : grp 0#27 g = ⟨false, false, false⟩ := by rw [grp, pos_zero, pos_zero, pos_zero]

/-- 0 is a fixed point of both tables. -/
@[simp] theorem sb_zero : sb 0#27 = 0#27 := block_ext_groups fun g hg => by rw [grp_sb hg, grp_zero]; rfl

@[simp] theorem sbi_zero : sbi 0#27 = 0#27 := block_ext_groups fun g hg => by rw [grp_sbi hg, grp_zero]; rfl

/-! ### The rounds -/

/-- The four stages of a decryption round undo those of an encryption round in the opposite order (R132). -/
@[simp] theorem decr_encr (B : Block) (K27 : BigKeyBits) (K18 : SmallKeyBits) : decr (encr B K27 K18) K27 K18 = B := by
  rw [decr, encr, sbi_sb, kp_kp, fpi_fp, mix_mix]

@[simp] theorem encr_decr (C : Block) (K27 : BigKeyBits) (K18 : SmallKeyBits) : encr (decr C K27 K18) K27 K18 = C := by
  rw [encr, decr, mix_mix, fp_fpi, kp_kp, sb_sbi]

theorem encr_self (B : Block) (K18 : SmallKeyBits) : encr B B K18 = ZERO27 := by
  rw [encr, mix_self, fp_zero, kp_zero, sb_zero]

theorem decr_zero (K27 : BigKeyBits) (K18 : SmallKeyBits) : decr ZERO27 K27 K18 = K27 := by
  rw [decr, sbi_zero, kp_zero, fpi_zero, zero_mix]

/-! ### The drivers -/

section
variable {n : Nat} (K : BitSeq n)

/-- Decryption goes back through the Blocks that encryption went through (R143). -/
theorem decRounds_encRounds (B : Block) {k : Nat} (hk : k ≤ 56) :
    decRounds (encRounds B K 56) K k = encRounds B K (56 - k) := by
  induction k with
  | zero => rfl
  | succ k ih =>
    have hlast : 56 - k = (55 - k) + 1 := by omega
    rw [decRounds, ih (by omega), hlast, encRounds, decr_encr]
    congr 1
    omega

/-- Encryption goes back through the Blocks that decryption went through (R143). -/
theorem encRounds_decRounds (C : Block) {k : Nat} (hk : k ≤ 56) :
    encRounds (decRounds C K 56) K k = decRounds C K (56 - k) := by
  induction k with
  | zero => rfl
  | succ k ih =>
    have hlast : 56 - k = (55 - k) + 1 := by omega
    have hindex : 55 - (55 - k) = k := by omega
    rw [encRounds, ih (by omega), hlast, decRounds, hindex, encr_decr]
    congr 1
    omega

@[simp] theorem decrypt_encrypt (B : Block) : decrypt (encrypt B K) K = B := decRounds_encRounds K B (le_refl 56)

@[simp] theorem encrypt_decrypt (C : Block) : encrypt (decrypt C K) K = C := encRounds_decRounds K C (le_refl 56)

end

/-- The drivers use nothing of the key but its 56 round keys. -/
theorem encrypt_congr {n m : Nat} {K : BitSeq n} {L : BitSeq m} (B : Block)
    (h : ∀ i, i < 56 → bigKey K i = bigKey L i ∧ smallKey K i = smallKey L i) : encrypt B K = encrypt B L := by
  have hrounds : ∀ k, k ≤ 56 → encRounds B K k = encRounds B L k := by
    intro k hk
    induction k with
    | zero => rfl
    | succ k ih =>
      obtain ⟨hbig, hsmall⟩ := h k (by omega)
      rw [encRounds, encRounds, ih (by omega), hbig, hsmall]
  exact hrounds 56 (le_refl 56)

theorem decrypt_congr {n m : Nat} {K : BitSeq n} {L : BitSeq m} (C : Block)
    (h : ∀ i, i < 56 → bigKey K i = bigKey L i ∧ smallKey K i = smallKey L i) : decrypt C K = decrypt C L := by
  have hrounds : ∀ k, k ≤ 56 → decRounds C K k = decRounds C L k := by
    intro k hk
    induction k with
    | zero => rfl
    | succ k ih =>
      obtain ⟨hbig, hsmall⟩ := h (55 - k) (by omega)
      rw [decRounds, decRounds, ih (by omega), hbig, hsmall]
  exact hrounds 56 (le_refl 56)

/-- The round keys lie in the first 2520 bits of the key (R54, R56). -/
theorem roundKeys_congr {n m : Nat} {K : BitSeq n} {L : BitSeq m} (h : ∀ a, a < 2520 → pos K a = pos L a) {i : Nat}
    (hi : i < 56) : bigKey K i = bigKey L i ∧ smallKey K i = smallKey L i :=
  ⟨ofPos_congr fun p hp => h _ (by omega), ofPos_congr fun q hq => h _ (by omega)⟩

theorem pos_append {n m p : Nat} (K : BitSeq n) (E : BitSeq m) (h : p < n) : pos (K ++ E) p = pos K p := by
  rw [pos, BitVec.getMsbD_append, if_neg (Nat.not_le.mpr h)]; rfl

theorem encrypt_zero : encrypt ZERO27 (0#2520) = ZERO27 := by
  have hrounds : ∀ k, encRounds ZERO27 (0#2520) k = ZERO27 := by
    intro k
    induction k with
    | zero => rfl
    | succ k ih =>
      have hbig : bigKey (0#2520) k = ZERO27 := seq_ext fun p hp => by rw [bigKey, pos_slice _ hp, pos_zero, pos_zero]
      rw [encRounds, ih, hbig, encr_self]
  exact hrounds 56

/-! ### The obligations about the stages -/

/-- Settles O22: MIX is an exclusive-or. -/
theorem mixIsSelfInverse : Obligations.MixIsSelfInverse := by
  unfold Obligations.MixIsSelfInverse
  exact ⟨mix_mix, mix_comm, fun K => Function.Involutive.bijective fun A => mix_mix A K⟩

/-- Settles O23: the tables are those of `perm` and `permInv`, and the groups are spread as the nine evaluations say. -/
theorem permutationTables : Obligations.PermutationTables := by
  unfold Obligations.PermutationTables
  refine ⟨fun A i j h => ?fp, fun A i j h => ?fpi, by decide⟩
  case fp =>
    rw [← perm_table] at h
    obtain ⟨hi, rfl⟩ := eq_of_getElem?_map_range h
    exact pos_fp_perm hi
  case fpi =>
    rw [← permInv_table] at h
    obtain ⟨hi, rfl⟩ := eq_of_getElem?_map_range h
    exact pos_fpi_permInv hi

/-- Settles O24: the laws of the 27 indices carry over to Blocks position by position. -/
theorem fixedPermutationLaws : Obligations.FixedPermutationLaws := by
  unfold Obligations.FixedPermutationLaws
  refine ⟨fun j hj => ⟨permInv j, ⟨permInv_lt hj, perm_permInv hj⟩, ?unique⟩, fun A => ⟨fpi_fp A, fp_fpi A⟩,
    by decide, by decide, fun A => ⟨?order, fpi_eq_fp_fp A⟩, fun A B => ⟨fp_xor A B, fpi_xor A B⟩,
    fun A => ⟨?weight, ?weightInv⟩⟩
  case unique =>
    rintro i ⟨hi, rfl⟩
    exact (permInv_perm hi).symm
  case order => rw [← fpi_eq_fp_fp, fpi_fp]
  case weight => exact countP_pos_rearranged (f := permInv) (by decide) fun p hp => pos_fp hp
  case weightInv => exact countP_pos_rearranged (f := perm) (by decide) fun p hp => pos_fpi hp

/-- Settles O25: the tables hold of every ordering and group, and KP is those orderings. -/
theorem kpMultiplexerTables : Obligations.KpMultiplexerTables := by
  unfold Obligations.KpMultiplexerTables
  rintro A K g hg s0 s1 rfl rfl
  obtain ⟨h0, h1, h2⟩ := shuffle_multiplexer (pos K (2 * g)) (pos K (2 * g + 1)) (grp A g)
  refine ⟨?_, ?_, ?_, ?_⟩
  · exact (congrArg some (pos_kp hg (k := 0) (by decide))).trans h0
  · exact (congrArg some (pos_kp hg (k := 1) (by decide))).trans h1
  · exact (congrArg some (pos_kp hg (k := 2) (by decide))).trans h2
  · rw [grp_kp hg]
    exact gval_shuffle_table _ _ _ _ _

/-- Settles O26. -/
theorem keyedPermutationLaws : Obligations.KeyedPermutationLaws := by
  unfold Obligations.KeyedPermutationLaws
  refine ⟨kp_kp, fun K => Function.Involutive.bijective fun A => kp_kp A K, kp_xor, ?oneGroup⟩
  case oneGroup =>
    intro A A' K K' g hg hA h0 h1
    rw [grp_kp hg, grp_kp hg, selectorAt, selectorAt, hA, h0, h1]

/-- Settles O27: the tables are evaluated; a Block with the group value 2, which the 6-cycle moves, shows that SB is no
involution and is not SBI. -/
theorem substitutionLaws : Obligations.SubstitutionLaws := by
  unfold Obligations.SubstitutionLaws
  refine ⟨by decide, fun A => ⟨sbi_sb A, sb_sbi A⟩, by decide, ⟨2#27, fun h => ?involution⟩, ⟨2#27, fun h => ?other⟩,
    by decide, fun A A' g hg hA => ⟨?sb, ?sbi⟩⟩
  case involution =>
    have hgrp := congrArg (grp · 8) h
    simp only [grp_sb (show 8 < 9 by decide)] at hgrp
    exact absurd hgrp (by decide)
  case other =>
    have hgrp := congrArg (grp · 8) h
    simp only [grp_sb (show 8 < 9 by decide), grp_sbi (show 8 < 9 by decide)] at hgrp
    exact absurd hgrp (by decide)
  case sb => rw [grp_sb hg, grp_sb hg, hA]
  case sbi => rw [grp_sbi hg, grp_sbi hg, hA]

/-! ### The obligations about the rounds and the drivers -/

/-- Settles O28. -/
theorem roundsAreInvertible : Obligations.RoundsAreInvertible := by
  unfold Obligations.RoundsAreInvertible
  exact ⟨decr_encr, encr_decr, fun K27 K18 =>
    ⟨Function.bijective_iff_has_inverse.mpr ⟨_, fun B => decr_encr B K27 K18, fun C => encr_decr C K27 K18⟩,
      Function.bijective_iff_has_inverse.mpr ⟨_, fun C => encr_decr C K27 K18, fun B => decr_encr B K27 K18⟩⟩⟩

/-- Settles O29: zero is a fixed point of every stage but MIX, and a zero key makes MIX and KP the identity. -/
theorem roundCornerCases : Obligations.RoundCornerCases := by
  unfold Obligations.RoundCornerCases
  exact ⟨encr_self, fun B => by rw [encr, mix_zero, kp_zeroKey], encr_self ZERO27 0#18, decr_zero, decr_zero 0#27⟩

/-- Settles O30: either driver goes back through the Blocks of the other. -/
theorem cipherIsInvertible : Obligations.CipherIsInvertible := by
  unfold Obligations.CipherIsInvertible
  exact fun n K _ => ⟨decrypt_encrypt K, encrypt_decrypt K,
    Function.bijective_iff_has_inverse.mpr ⟨(decrypt · K), decrypt_encrypt K, encrypt_decrypt K⟩,
    Function.bijective_iff_has_inverse.mpr ⟨(encrypt · K), encrypt_decrypt K, decrypt_encrypt K⟩⟩

/-- Settles O31: an extension keeps the first 2520 bits, where the round keys lie. -/
theorem keyBitsBeyond2520AreIgnored : Obligations.KeyBitsBeyond2520AreIgnored := by
  unfold Obligations.KeyBitsBeyond2520AreIgnored
  intro n m K E B hn
  have hkeys : ∀ i, i < 56 → bigKey (K ++ E) i = bigKey K i ∧ smallKey (K ++ E) i = smallKey K i :=
    fun i hi => roundKeys_congr (fun a ha => pos_append K E (by omega)) hi
  exact ⟨encrypt_congr B hkeys, decrypt_congr B hkeys⟩

/-- Settles O32: the round keys are those of the zero key, every encryption round of which keeps the zero Block; and
DECRYPT undoes ENCRYPT. -/
theorem zeroKeyKeepsZeroBlock : Obligations.ZeroKeyKeepsZeroBlock := by
  unfold Obligations.ZeroKeyKeepsZeroBlock
  intro n K _ hK
  have henc : encrypt ZERO27 K = ZERO27 := (encrypt_congr ZERO27 fun i hi =>
    roundKeys_congr (fun a ha => (hK a ha).trans (pos_zero 2520 a).symm) hi).trans encrypt_zero
  exact ⟨henc, calc decrypt ZERO27 K = decrypt (encrypt ZERO27 K) K := by rw [henc]
    _ = ZERO27 := decrypt_encrypt K ZERO27⟩

end Sys2Proof.Machine

/-! SUPPORT. The rows that are pieces of a round, run as instructions (log entries 4 and 5): the selectors, the stages, the
round functions, the drivers and the round steps; where a round stops; the key reads; and the obligations about them. -/
namespace Sys2Proof.Machine

/-! ### The key reads (20_memory.md R54 to R56) -/

section
variable {m : Memory} {r : Nat} {K27 : BigKeyBits} {K18 : SmallKeyBits}

theorem memRead_bigKeyAddr (hr : r < 56) (h : holdsRoundKey m r K27 K18) : memRead m (bigKeyAddr r) 27 = .ok K27 := by
  obtain ⟨hbig, -⟩ := h
  exact memRead_ok_iff.mpr ⟨by rw [bigKeyAddr]; omega, hbig⟩

theorem memRead_smallKeyAddr (hr : r < 56) (h : holdsRoundKey m r K27 K18) : memRead m (smallKeyAddr r) 18 = .ok K18 := by
  obtain ⟨-, hsmall⟩ := h
  exact memRead_ok_iff.mpr ⟨by rw [smallKeyAddr]; omega, hsmall⟩

end

/-- A store that holds K is read as K. -/
theorem memRead_of_holdsKey {m : Memory} {K : BitSeq 2520} (h : holdsKey m K) : memRead m 0 2520 = .ok K :=
  memRead_ok_iff.mpr ⟨le_refl 2520, fun j hj => by rw [Nat.zero_add]; exact h j hj⟩

theorem memRead_bigKey {m : Memory} {K : BitSeq 2520} {i : Nat} (h : holdsKey m K) (hi : i < 56) :
    memRead m (45 * i) 27 = .ok (bigKey K i) := memRead_slice (memRead_of_holdsKey h) (by omega)

theorem memRead_smallKey {m : Memory} {K : BitSeq 2520} {i : Nat} (h : holdsKey m K) (hi : i < 56) :
    memRead m (45 * i + 27) 18 = .ok (smallKey K i) := memRead_slice (memRead_of_holdsKey h) (by omega)

/-- A read past cell 2519 stops (log entry 3). -/
theorem memRead_past_end {addr n : Nat} (m : Memory) (h : 2520 < addr + n) : memRead m addr n = .error (.keyRange addr n) :=
  if_neg (Nat.not_le.mpr h)

/-- A read stops at its first cell that nothing has written (log entry 2). -/
theorem readCells_unwritten {m : Memory} {addr n a : Nat} (hlo : addr ≤ a) (hhi : a < addr + n)
    (hnone : Memory.read m a = none) (hbefore : ∀ b, addr ≤ b → b < a → (Memory.read m b).isSome) :
    readCells m addr n = .error (.keyUnwritten a) := by
  induction n with
  | zero => omega
  | succ n ih =>
    by_cases ha : a < addr + n
    · rw [readCells, ih ha]
    · obtain rfl : a = addr + n := by omega
      obtain ⟨v, hv⟩ := readCells_total (m := m) (addr := addr) (n := n) fun j hj => hbefore _ (by omega) (by omega)
      simp only [readCells, hv, hnone]

theorem memRead_unwritten {m : Memory} {addr n a : Nat} (hn : addr + n ≤ 2520) (hlo : addr ≤ a) (hhi : a < addr + n)
    (hnone : Memory.read m a = none) (hbefore : ∀ b, addr ≤ b → b < a → (Memory.read m b).isSome) :
    memRead m addr n = .error (.keyUnwritten a) := (if_pos hn).trans (readCells_unwritten hlo hhi hnone hbefore)

theorem withKeyBits_error {s : State} {addr n : Nat} {f : BitSeq n → State} {e : Fault}
    (h : memRead s.KEY addr n = .error e) : withKeyBits s addr n f = .fault e := by rw [withKeyBits, h]

/-- The round key is read in address order, BigKey first, so the first unwritten cell of the window stops it. -/
theorem withRoundKey_unwritten {s : State} {r a : Nat} (f : BigKeyBits → SmallKeyBits → State) (hr : r < 56)
    (hlo : 45 * r ≤ a) (hhi : a < 45 * r + 45) (hnone : Memory.read s.KEY a = none)
    (hbefore : ∀ b, 45 * r ≤ b → b < a → (Memory.read s.KEY b).isSome) :
    withRoundKey s r f = .fault (.keyUnwritten a) := by
  by_cases ha : a < 45 * r + 27
  · have hbig : memRead s.KEY (45 * r) 27 = .error (.keyUnwritten a) :=
      memRead_unwritten (by omega) hlo ha hnone hbefore
    rw [withRoundKey, bigKeyAddr, hbig]
  · obtain ⟨K27, hbig⟩ : ∃ K27, memRead s.KEY (45 * r) 27 = .ok K27 :=
      memRead_total (by omega) fun b hb hb' => hbefore b hb (by omega)
    have hsmall : memRead s.KEY (45 * r + 27) 18 = .error (.keyUnwritten a) :=
      memRead_unwritten (by omega) (by omega) (by omega) hnone fun b hb hb' => hbefore b (by omega) hb'
    rw [withRoundKey, bigKeyAddr, hbig]
    exact withKeyBits_error hsmall

/-! ### The selectors -/

/-- What a reordered group becomes, and that no other group changes (R87, R108). -/
theorem reorderGroup_BLK {s : State} {g : BitVec 4} {c : Group} (sel : Selector) (hg : g.toNat < 9)
    (hc : grp s.BLK g.toNat = c) :
    grp (reorderGroup sel g s).BLK g.toNat = shuffle sel c ∧
      ∀ h, h < 9 → h ≠ g.toNat → grp (reorderGroup sel g s).BLK h = grp s.BLK h := by
  subst hc
  refine ⟨?_, fun h hh hne => ?_⟩
  · rw [reorderGroup, grp_setGroup _ hg, if_pos rfl]
  · rw [reorderGroup, grp_setGroup _ hh, if_neg hne]

/-! ### The drivers as folds over the round indices -/

theorem exec_encrypt_of_holdsKey {s : State} {K : BitSeq 2520} (h : holdsKey s.KEY K) :
    exec .encrypt s = .next (setBlk (encrypt s.BLK K) s) := by
  rw [exec, execEncrypt, withKeyBits_ok (memRead_of_holdsKey h)]

theorem exec_decrypt_of_holdsKey {s : State} {K : BitSeq 2520} (h : holdsKey s.KEY K) :
    exec .decrypt s = .next (setBlk (decrypt s.BLK K) s) := by
  rw [exec, execDecrypt, withKeyBits_ok (memRead_of_holdsKey h)]

section
variable {n : Nat} (K : BitSeq n)

theorem encRounds_eq_foldl (B : Block) (k : Nat) : encRounds B K k =
    (List.range k).foldl (fun cur i => encr cur (slice K (45 * i) 27) (slice K (45 * i + 27) 18)) B := by
  induction k with
  | zero => rfl
  | succ k ih => rw [encRounds, ih, List.range_succ, List.foldl_append]; rfl

theorem decRounds_eq_foldl (C : Block) (k : Nat) : decRounds C K k =
    ((List.range k).map (55 - ·)).foldl (fun cur i => decr cur (slice K (45 * i) 27) (slice K (45 * i + 27) 18)) C := by
  induction k with
  | zero => rfl
  | succ k ih => rw [decRounds, ih, List.range_succ, List.map_append, List.foldl_append]; rfl

end

/-! ### The obligations -/

/-- Settles O13: each selector row is `reorderGroup` with its ordering. -/
theorem selectorsReorderOneGroup : Obligations.SelectorsReorderOneGroup := by
  unfold Obligations.SelectorsReorderOneGroup
  intro s g hg c0 c1 c2 hc i d hrow
  obtain ⟨sel, hexec, rfl⟩ : ∃ sel, exec i s = .next (reorderGroup sel g s) ∧ d = shuffle sel ⟨c0, c1, c2⟩ := by
    simp only [List.mem_cons, Prod.mk.injEq, List.not_mem_nil, or_false] at hrow
    rcases hrow with ⟨rfl, rfl⟩ | ⟨rfl, rfl⟩ | ⟨rfl, rfl⟩ | ⟨rfl, rfl⟩
    · exact ⟨.ident, rfl, rfl⟩
    · exact ⟨.swap01, rfl, rfl⟩
    · exact ⟨.swap12, rfl, rfl⟩
    · exact ⟨.rev, rfl, rfl⟩
  exact ⟨(reorderGroup sel g s).BLK, hexec, reorderGroup_BLK sel hg hc⟩

/-- Settles O14. -/
theorem mixXorsBigKey : Obligations.MixXorsBigKey := by
  unfold Obligations.MixXorsBigKey
  intro s d r K27 K18 hr hk
  refine ⟨mix s.BLK K27, withKeyBits_ok (memRead_bigKeyAddr hr hk), fun p hp => pos_mix hp, ?value⟩
  case value => rw [mix_eq_xor, BitVec.toNat_xor]

/-- Settles O15: `perm` below 26 is the tripling of R103. -/
theorem fixedPermutationMovesPositions : Obligations.FixedPermutationMovesPositions := by
  unfold Obligations.FixedPermutationMovesPositions
  intro s r
  refine ⟨⟨fp s.BLK, rfl, fun i hi => ?fp, pos_fp (by decide)⟩, ⟨fpi s.BLK, rfl, fun i hi => ?fpi, pos_fpi (by decide)⟩⟩
  case fp => rw [← perm_of_le hi, pos_fp_perm (by omega)]
  case fpi => rw [← perm_of_le hi, pos_fpi (by omega)]

/-- Settles O16. -/
theorem kpReordersEachGroup : Obligations.KpReordersEachGroup := by
  unfold Obligations.KpReordersEachGroup
  intro s d r K27 K18 hr hk
  refine ⟨kp s.BLK K18, withKeyBits_ok (memRead_smallKeyAddr hr hk), fun g hg c0 c1 c2 hc => ?_⟩
  rw [grp_kp hg, hc, selectorAt]
  cases pos K18 (2 * g) <;> cases pos K18 (2 * g + 1) <;> rfl

/-- Settles O17. -/
theorem substitutionAppliesTables : Obligations.SubstitutionAppliesTables := by
  unfold Obligations.SubstitutionAppliesTables
  intro s r
  refine ⟨⟨sb s.BLK, rfl, fun g hg => ?sb⟩, ⟨sbi s.BLK, rfl, fun g hg => ?sbi⟩⟩
  case sb => rw [grp_sb hg]; exact gval_substitute rfl (by decide) _
  case sbi => rw [grp_sbi hg]; exact gval_substitute rfl (by decide) _

/-- Settles O18: the round functions are the four stages, on the round key that the window holds. -/
theorem roundsComposeStages : Obligations.RoundsComposeStages := by
  unfold Obligations.RoundsComposeStages
  intro s r K27 K18 hr hk
  have hr : r.toNat ≤ 55 := Nat.le_of_lt_succ hr
  exact ⟨withRoundKey_of_holdsRoundKey _ hr hk, withRoundKey_of_holdsRoundKey _ hr hk⟩

/-- Settles O19: the drivers are folds over the indices, ascending and descending. -/
theorem driversRunAllRoundsInOrder : Obligations.DriversRunAllRoundsInOrder := by
  unfold Obligations.DriversRunAllRoundsInOrder
  intro s K hK
  refine ⟨?encrypt, ?decrypt⟩
  case encrypt => rw [exec_encrypt_of_holdsKey hK, setBlk, encrypt, encRounds_eq_foldl]
  case decrypt =>
    have hdown : (List.range 56).map (55 - ·) = (List.range 56).reverse := by decide
    rw [exec_decrypt_of_holdsKey hK, setBlk, decrypt, decRounds_eq_foldl, hdown]

/-- Settles O20. -/
theorem roundStepAdvances : Obligations.RoundStepAdvances := by
  unfold Obligations.RoundStepAdvances
  intro s r K27 K18 hr hk
  have henc := exec_roundstepEnc_of_holdsRoundKey (Nat.le_of_lt_succ hr) hk
  have hdec := exec_roundstepDec_of_holdsRoundKey (Nat.le_of_lt_succ hr) hk
  refine ⟨fun h => ?_, fun h => ?_, fun h => ?_, fun h => ?_⟩
  · rw [henc, advanceEnc, if_pos h, setBlk]
  · rw [henc, advanceEnc, if_neg h, setBlk]
  · rw [hdec, advanceDec, if_pos h, setBlk]
  · rw [hdec, advanceDec, if_neg h, setBlk]

/-- Settles O21: both round steps begin with the read of their round key. -/
theorem unwrittenKeyCellStopsARound : Obligations.UnwrittenKeyCellStopsARound := by
  unfold Obligations.UnwrittenKeyCellStopsARound
  intro s r a hr hlo hhi hnone hbefore
  exact ⟨withRoundKey_unwritten _ hr hlo hhi hnone hbefore, withRoundKey_unwritten _ hr hlo hhi hnone hbefore⟩

/-- Settles O37: a read of part of the store answers that part of the key. -/
theorem roundKeyReadsAreKeySlices : Obligations.RoundKeyReadsAreKeySlices := by
  unfold Obligations.RoundKeyReadsAreKeySlices
  refine ⟨fun m K i hK hi => ⟨memRead_bigKey hK hi, memRead_smallKey hK hi, fun p hp => pos_slice K hp, fun g hg => ?_⟩,
    fun m addr n h => memRead_past_end m h⟩
  exact ⟨pos_slice K (by omega), pos_slice K (by omega)⟩

end Sys2Proof.Machine

/-! SUPPORT. Rules about every step (10_state.md R27, 20_memory.md R57, 42_driver.md R150, 60_exceptions.md R194 to R200):
which steps write a key cell, change the controller state, enter ERROR or clear `irq`; and the obligations about them. -/
namespace Sys2Proof.Machine

/-! ### The key store -/

section
variable {s t : State}

theorem whenIdle_KEY {f : State → State} (hf : ∀ u, (f u).KEY = u.KEY)
    (h : Host.Outcome.next (φ := Fault) (ρ := Refusal) (whenIdle s f) = .next t) : t.KEY = s.KEY := by
  obtain rfl : whenIdle s f = t := Host.Outcome.next.inj h
  by_cases hs : s.ST = .idle
  · rw [whenIdle_idle hs, hf]
  · rw [whenIdle_dropped hs]

theorem appendBlock_KEY (ch : Character) (s : State) : (appendBlock ch s).KEY = s.KEY := by
  rcases appendBlock_cases ch s with ⟨-, e⟩ | ⟨-, e⟩ | ⟨-, e⟩ <;> rw [e]

theorem startOrRaise_KEY (d : Direction) (s : State) : (startOrRaise d s).KEY = s.KEY := by
  rcases startOrRaise_cases d s with ⟨-, e⟩ | ⟨-, -, e⟩ | ⟨-, -, e⟩ <;> rw [e] <;> rfl

theorem advanceEnc_KEY (r : BitVec 6) (s : State) : (advanceEnc r s).KEY = s.KEY := by rw [advanceEnc_eq]

theorem advanceDec_KEY (r : BitVec 6) (s : State) : (advanceDec r s).KEY = s.KEY := by rw [advanceDec_eq]

/-- ACK writes no key cell: the key is kept for the next operation (R168). -/
theorem exec_ack_KEY (h : exec .ack s = .next t) : t.KEY = s.KEY := by
  cases hs : s.ST with
  | idle => rw [exec_ack_idle hs] at h; cases h; rfl
  | busy => rw [exec_ack_busy hs] at h; cases h; rfl
  | done => rw [exec_ack_done hs] at h; cases h; rfl
  | error => rw [exec_ack_error hs] at h; cases h; rfl

theorem withKeyBits_KEY {addr n : Nat} {f : BitSeq n → State} (h : withKeyBits s addr n f = .next t)
    (hf : ∀ K, (f K).KEY = s.KEY) : t.KEY = s.KEY := by
  obtain ⟨K, -, rfl⟩ := withKeyBits_next h
  exact hf K

theorem withRoundKey_KEY {r : Nat} {f : BigKeyBits → SmallKeyBits → State} (h : withRoundKey s r f = .next t)
    (hf : ∀ K27 K18, (f K27 K18).KEY = s.KEY) : t.KEY = s.KEY := by
  obtain ⟨K27, K18, -, -, rfl⟩ := withRoundKey_next h
  exact hf K27 K18

/-- PUSHK is the only instruction that writes the key store (R57). -/
theorem exec_KEY {i : Instr} (hne : ∀ ch, i ≠ .pushk ch) (h : exec i s = .next t) : t.KEY = s.KEY := by
  cases i with
  | nop => cases h; rfl
  | clrb => exact whenIdle_KEY clearBlock_KEY h
  | clrk => exact whenIdle_KEY clearKey_KEY h
  | pushb ch => exact whenIdle_KEY (appendBlock_KEY ch) h
  | pushk ch => exact absurd rfl (hne ch)
  | enc => exact whenIdle_KEY (startOrRaise_KEY .encrypt) h
  | dec => exact whenIdle_KEY (startOrRaise_KEY .decrypt) h
  | ack => exact exec_ack_KEY h
  | reserved0 | reserved1 | reserved2 | reserved5 | reserved6 | reserved7 | reservedHi =>
    exact whenIdle_KEY (fun u => raise_KEY u .errCmd) h
  | selId | selSwap01 | selSwap12 | selRev | fp | fpi | sb | sbi => cases h; rfl
  | roundstepEnc r => exact withRoundKey_KEY h fun _ _ => advanceEnc_KEY r _
  | roundstepDec r => exact withRoundKey_KEY h fun _ _ => advanceDec_KEY r _
  | mix | kp => exact withKeyBits_KEY h fun _ => rfl
  | encr | decr => exact withRoundKey_KEY h fun _ _ => rfl
  | encrypt =>
    rw [exec, execEncrypt] at h
    exact withKeyBits_KEY h fun _ => rfl
  | decrypt =>
    rw [exec, execDecrypt] at h
    exact withKeyBits_KEY h fun _ => rfl

/-- The key cell a step can change: the one at `KLEN`, by an accepted PUSHK below the end of the store. -/
theorem appendKey_changes {ch : Character} {a : Nat} (h : Memory.read (appendKey ch s).KEY a ≠ Memory.read s.KEY a) :
    a = s.KLEN.toNat ∧ s.KLEN.toNat < 2520 := by
  rcases appendKey_cases ch s with ⟨hlen, e⟩ | ⟨-, e⟩ <;> rw [e] at h
  · exact ⟨not_not.mp fun hne => h (read_write_ne hne), hlen⟩
  · exact absurd rfl h

/-- A step runs PUSHK when the host presents it outside BUSY. -/
theorem fetch_pushk {ch : Character} (h : decode (fetch s) = .ok (.pushk ch)) : (sampled s).cmd = cmdWord 0x4#4 ch := by
  obtain ⟨-, hw⟩ := wf_and_encode_of_decode h
  by_cases hst : s.ST = .busy
  · rw [fetch_busy hst] at hw
    cases hw
  · rw [fetch_host hst] at hw
    injection hw with hw
    injection hw with hw
    exact hw.symm

/-! ### The controller state -/

theorem appendBlock_ST (ch : Character) (s : State) : (appendBlock ch s).ST = s.ST := by
  rcases appendBlock_cases ch s with ⟨-, e⟩ | ⟨-, e⟩ | ⟨-, e⟩ <;> rw [e]

theorem appendKey_ST (ch : Character) (s : State) : (appendKey ch s).ST = s.ST := by
  rcases appendKey_cases ch s with ⟨-, e⟩ | ⟨-, e⟩ <;> rw [e]

/-- What changes the controller state: ENC, DEC and the reserved words from IDLE, ACK from DONE and ERROR (R27). -/
theorem exec_command_ST_cases {w : CmdWord} (h : exec (decodeCmd w) s = .next t) (hne : t.ST ≠ s.ST) :
    (s.ST = .idle ∧ (w = 0x500#12 ∨ w = 0x600#12) ∧ ∃ d, t = startOrRaise d s) ∨
    (s.ST = .idle ∧ reservedRow (decodeCmd w) = true ∧ t = raise .errCmd s) ∨
    ((s.ST = .done ∨ s.ST = .error) ∧ w = 0x700#12 ∧ t.ST = .idle) := by
  rcases exec_command_cases h with rfl | ⟨-, -, rfl⟩ | ⟨-, -, rfl⟩ | ⟨-, ch, -, rfl⟩ | ⟨-, ch, -, rfl⟩ |
    ⟨hs, hw, rfl⟩ | ⟨hs, hw, rfl⟩ | ⟨hs, hw, rfl⟩ | ⟨hs, hw, rfl⟩ | ⟨hs, hw, rfl⟩
  · exact absurd rfl hne
  · exact absurd rfl hne
  · exact absurd rfl hne
  · exact absurd (appendBlock_ST ch s) hne
  · exact absurd (appendKey_ST ch s) hne
  · exact .inl ⟨hs, .inl hw, .encrypt, rfl⟩
  · exact .inl ⟨hs, .inr hw, .decrypt, rfl⟩
  · exact .inr (.inr ⟨.inl hs, hw, rfl⟩)
  · exact .inr (.inr ⟨.inr hs, hw, rfl⟩)
  · exact .inr (.inl ⟨hs, hw, rfl⟩)

/-- A command that enters ERROR is an exception taken from IDLE (R194). -/
theorem exec_command_enters_error {w : CmdWord} (h : exec (decodeCmd w) s = .next t) (hs : s.ST ≠ .error)
    (ht : t.ST = .error) : s.ST = .idle ∧ ∃ e, e ≠ .none ∧ t = raise e s := by
  rcases exec_command_ST_cases h (by rw [ht]; exact hs.symm) with ⟨hidle, -, d, rfl⟩ | ⟨hidle, -, rfl⟩ | ⟨-, -, hidle⟩
  · rcases startOrRaise_cases d s with ⟨-, e⟩ | ⟨-, -, e⟩ | ⟨-, -, e⟩
    · exact ⟨hidle, .errBlock, by decide, e⟩
    · exact ⟨hidle, .errKey, by decide, e⟩
    · rw [e, start_ST] at ht
      cases ht
  · exact ⟨hidle, .errCmd, by decide, rfl⟩
  · rw [hidle] at ht
    cases ht

/-- A step enters ERROR by an exception taken from IDLE: a reset ends in IDLE, and a round in BUSY or DONE (R194). -/
theorem step_enters_error (h : step s = .next t) (hs : s.ST ≠ .error) (ht : t.ST = .error) :
    s.ST = .idle ∧ ∃ e, e ≠ .none ∧ t = raise e (consume s) := by
  rcases step_next_cases h with ⟨-, rfl⟩ | ⟨hrst, -⟩
  · cases ht
  · by_cases hbusy : s.ST = .busy
    · rcases reset_or_last_round_of_leaves_busy hbusy h (by rw [ht]; decide) with hreset | ⟨hdone, -⟩
      · rw [hrst] at hreset
        cases hreset
      · rw [ht] at hdone
        cases hdone
    · rw [step_host hrst hbusy] at h
      exact exec_command_enters_error (s := consume s) h hs ht

/-! ### The interrupt line -/

theorem outputs_irq_of_idle (h : s.ST = .idle) : (outputs s).irq = false := by
  rw [outputs, h]; rfl

/-- ACK is the way from DONE and ERROR back to IDLE (R168). -/
theorem step_ack (hrst : (sampled s).rst = false) (hw : (sampled s).cmd = 0x700#12) (hst : s.ST = .done ∨ s.ST = .error) :
    ∃ t, step s = .next t ∧ t.ST = .idle := by
  have hack : decodeCmd 0x700#12 = .ack := by decide
  have hbusy : s.ST ≠ .busy := by rcases hst with h | h <;> rw [h] <;> decide
  rw [step_host hrst hbusy, hw, hack]
  rcases hst with hst | hst
  · exact ⟨_, exec_ack_done (s := consume s) hst, rfl⟩
  · exact ⟨_, exec_ack_error (s := consume s) hst, rfl⟩

end

/-! ### What the host presents -/

/-- What holds of the idle word and of every input holds of the one sampled. -/
theorem sampled_of_forall {P : HostInput → Prop} {ins : List HostInput} (s : State) (hidle : P idleInput)
    (h : ∀ x ∈ ins, P x) : P (sampled (withInputs s ins)) := by
  cases ins with
  | nil => exact hidle
  | cons x xs => exact h x (List.mem_cons_self ..)

theorem noReset_tail {ins : List HostInput} (h : noReset ins) : noReset ins.tail :=
  fun x hx => h x (List.mem_of_mem_tail hx)

theorem sampled_rst_of_noReset {ins : List HostInput} (s : State) (h : noReset ins) :
    (sampled (withInputs s ins)).rst = false := sampled_of_forall (P := fun x => x.rst = false) s rfl h

/-! ### The obligations -/

/-- Settles O38: of the instructions only PUSHK writes, and in BUSY none is fetched. -/
theorem keyChangesOnlyByPushk : Obligations.KeyChangesOnlyByPushk := by
  unfold Obligations.KeyChangesOnlyByPushk
  intro s t h a hne
  rcases step_next_cases h with ⟨-, rfl⟩ | ⟨hrst, i, hi, hexec⟩
  · exact absurd rfl hne
  · by_cases hpush : ∀ ch, i ≠ .pushk ch
    · rw [exec_KEY hpush hexec] at hne
      exact absurd rfl hne
    · push Not at hpush
      obtain ⟨ch, rfl⟩ := hpush
      cases hexec
      by_cases hs : s.ST = .idle
      · rw [whenIdle_idle (s := consume s) hs] at hne
        exact ⟨hrst, hs, by rw [fetch_pushk hi, cmdOp_cmdWord], appendKey_changes (s := consume s) hne⟩
      · rw [whenIdle_dropped (s := consume s) hs] at hne
        exact absurd rfl hne

/-- Settles O39. -/
theorem onlyPushkWritesKeyCells : Obligations.OnlyPushkWritesKeyCells := by
  unfold Obligations.OnlyPushkWritesKeyCells
  exact fun i s t hne h a => by rw [exec_KEY hne h]

/-- Settles O42. -/
theorem stepRunsDecodedInstruction : Obligations.StepRunsDecodedInstruction := by
  unfold Obligations.StepRunsDecodedInstruction
  refine fun s => ⟨step_of_rst, fun i => step_of_decode, fun hst => ?host, fun hst hd hr => ?encrypt,
    fun hst hd hr => ?decrypt⟩
  case host => rw [fetch_host hst, decode_cmd]
  case encrypt => rw [fetch_busy hst, hd, decode_busyWord_encrypt (roundOk_iff.mpr hr)]
  case decrypt => rw [fetch_busy hst, hd, decode_busyWord_decrypt (roundOk_iff.mpr hr)]

/-- Settles O47: both ways out end in IDLE, and any other step from DONE or ERROR only consumes its input. -/
theorem irqIsClearedByAckAndReset : Obligations.IrqIsClearedByAckAndReset := by
  unfold Obligations.IrqIsClearedByAckAndReset
  intro s hirq
  have hst := outputs_irq_iff.mp hirq
  refine ⟨fun h => ?cleared, fun hrst hw => ⟨consume s, step_of_done_or_error hrst hst hw, hirq⟩⟩
  case cleared =>
    cases hrst : (sampled s).rst with
    | true => exact ⟨_, step_of_rst hrst, rfl⟩
    | false =>
      have hw : (sampled s).cmd = 0x700#12 := h.resolve_left (by rw [hrst]; decide)
      obtain ⟨t, ht, hidle⟩ := step_ack hrst hw hst
      exact ⟨t, ht, outputs_irq_of_idle hidle⟩

/-- Settles O48: BUSY is left by the last round, and the other states by the commands of `exec_command_ST_cases`. -/
theorem controllerStateTransitions : Obligations.ControllerStateTransitions := by
  unfold Obligations.ControllerStateTransitions
  intro s t hrst h hne
  by_cases hbusy : s.ST = .busy
  · rcases reset_or_last_round_of_leaves_busy hbusy h (by rwa [hbusy] at hne) with hreset | ⟨hdone, hlast⟩
    · rw [hrst] at hreset
      cases hreset
    · exact .inr (.inr (.inr (.inl ⟨hbusy, hdone, hlast⟩)))
  · rw [step_host hrst hbusy] at h
    rcases exec_command_ST_cases (s := consume s) h hne with ⟨hs, hw, d, rfl⟩ | ⟨hs, hw, rfl⟩ | ⟨hs, hw, ht⟩
    · rcases startOrRaise_cases d (consume s) with ⟨hb, e⟩ | ⟨-, hk, e⟩ | ⟨hb, hk, e⟩
      · exact .inr (.inl ⟨hs, by rw [e, raise_ST], hw, .inl hb⟩)
      · exact .inr (.inl ⟨hs, by rw [e, raise_ST], hw, .inr hk⟩)
      · exact .inl ⟨hs, by rw [e, start_ST], hw, hb, hk⟩
    · exact .inr (.inr (.inl ⟨hs, rfl, hw⟩))
    · exact .inr (.inr (.inr (.inr ⟨hs, ht, hw⟩)))

/-- Settles O49: what enters ERROR is `raise` on the consumed state. -/
theorem exceptionsArePrecise : Obligations.ExceptionsArePrecise := by
  unfold Obligations.ExceptionsArePrecise
  intro s t h hs ht
  obtain ⟨hidle, e, he, rfl⟩ := step_enters_error h hs ht
  exact ⟨hidle, he, rfl⟩

/-- Settles O50, by induction on the number of steps: each of them only consumes its input. -/
theorem doneAndErrorHoldUntilAck : Obligations.DoneAndErrorHoldUntilAck := by
  unfold Obligations.DoneAndErrorHoldUntilAck
  intro s ins k hst hrst hack
  induction k generalizing ins with
  | zero => rfl
  | succ k ih =>
    have hstep : step (withInputs s ins) = .next (withInputs s ins.tail) :=
      step_of_done_or_error (sampled_rst_of_noReset s hrst) hst
        (sampled_of_forall (P := fun x => x.cmd ≠ 0x700#12) s (by decide) hack)
    rw [run_succ k hstep, ih ins.tail (noReset_tail hrst) fun x hx => hack x (List.mem_of_mem_tail hx), List.drop_tail]

/-- Settles O52: `res` is the one output that shows `BLK`, and it shows it in DONE only. -/
theorem outputsHideKeyAndRunningBlock : Obligations.OutputsHideKeyAndRunningBlock := by
  unfold Obligations.OutputsHideKeyAndRunningBlock
  intro s s' hst herr hblen hklen hbbad hkbad hblk
  have hres : (if s.ST = .done then s.BLK else 0#27) = if s'.ST = .done then s'.BLK else 0#27 := by
    rw [← hst]
    by_cases hd : s.ST = .done
    · rw [if_pos hd, if_pos hd, hblk hd]
    · rw [if_neg hd, if_neg hd]
  rw [outputs, outputs, hres, hst, herr, hblen, hklen, hbbad, hkbad]

end Sys2Proof.Machine

/-! SUPPORT. Pushing a sequence of characters (20_memory.md R51, R52): what the pushes of a list leave in the state, the run
that presents them, and the obligations about them. -/
namespace Sys2Proof.Machine

/-! ### The state after a list of pushes -/

/-- The state after the characters have been appended to the key, left to right (R164). -/
def appendKeys (cs : List Character) (s : State) : State := cs.foldl (fun t ch => appendKey ch t) s

/-- The state after the characters have been appended to the block buffer, left to right (R163). -/
def appendBlocks (cs : List Character) (s : State) : State := cs.foldl (fun t ch => appendBlock ch t) s

theorem appendKeys_append (cs ds : List Character) (s : State) :
    appendKeys (cs ++ ds) s = appendKeys ds (appendKeys cs s) := List.foldl_append

theorem appendBlocks_append (cs ds : List Character) (s : State) :
    appendBlocks (cs ++ ds) s = appendBlocks ds (appendBlocks cs s) := List.foldl_append

theorem charBit_bitChar (b : Bit) : charBit (bitChar b) = some b := by cases b <;> rfl

theorem storedBit_bitChar (b : Bit) : storedBit (bitChar b) = b := by rw [storedBit, charBit_bitChar, Option.getD_some]

/-- A bit character is stored at the next cell and leaves the flag as it was. -/
theorem appendKey_bitChar {s : State} (b : Bit) (h : s.KLEN.toNat < 2520) : appendKey (bitChar b) s =
    { s with KEY := Memory.write s.KEY s.KLEN.toNat b, KLEN := s.KLEN + 1#12 } := by
  rw [appendKey_of_lt _ h, storedBit_bitChar, stickyBad_valid (charBit_bitChar b)]

/-- A bit character is stored at the next position and leaves the flag as it was. -/
theorem appendBlock_bitChar {s : State} (b : Bit) (h : s.BLEN.toNat < 27) : appendBlock (bitChar b) s =
    { s with BLK := setPos s.BLK s.BLEN.toNat b, BLEN := s.BLEN + 1#5 } := by
  rw [appendBlock_of_lt _ h, storedBit_bitChar, stickyBad_valid (charBit_bitChar b)]

/-- The last element of a list is at the place its length says, the others where they were. -/
theorem getElem?_concat_eq_some {bits : List Bit} {b c : Bit} {a : Nat} (h : (bits ++ [b])[a]? = some c) :
    (a = bits.length ∧ c = b) ∨ (a ≠ bits.length ∧ bits[a]? = some c) := by
  rcases lt_trichotomy a bits.length with hlt | heq | hgt
  · rw [List.getElem?_append_left hlt] at h
    exact .inr ⟨hlt.ne, h⟩
  · rw [heq, List.getElem?_concat_length] at h
    exact .inl ⟨heq, (Option.some.inj h).symm⟩
  · rw [List.getElem?_eq_none (by rw [List.length_append, List.length_singleton]; omega)] at h
    cases h

/-- From an empty key the bits fill the cells in their order (R51). -/
theorem appendKeys_bits {s : State} (bits : List Bit) (hklen : s.KLEN = 0#12) (hlen : bits.length ≤ 2520) :
    ∃ m : Memory, appendKeys (bits.map bitChar) s = { s with KEY := m, KLEN := BitVec.ofNat 12 bits.length } ∧
      (∀ (a : Nat) (b : Bit), bits[a]? = some b → Memory.read m a = some b) ∧
      ∀ a, bits.length ≤ a → Memory.read m a = Memory.read s.KEY a := by
  induction bits using List.reverseRecOn with
  | nil => exact ⟨s.KEY, by rw [List.length_nil, ← hklen]; rfl, nofun, fun a _ => rfl⟩
  | append_singleton bits b ih =>
    rw [List.length_append, List.length_singleton] at hlen
    obtain ⟨m, hm, hbits, hrest⟩ := ih (by omega)
    have hcount : (BitVec.ofNat 12 bits.length).toNat = bits.length := by
      rw [BitVec.toNat_ofNat]; omega
    refine ⟨Memory.write m bits.length b, ?state, fun a c hc => ?stored, fun a ha => ?kept⟩
    case state =>
      rw [List.map_append, appendKeys_append, hm, List.length_append, BitVec.ofNat_add]
      refine (appendKey_bitChar b (by rw [hcount]; omega)).trans ?_
      rw [hcount]; rfl
    case stored =>
      rcases getElem?_concat_eq_some hc with ⟨rfl, rfl⟩ | ⟨hne, hc⟩
      · exact read_write_same m _ c
      · rw [read_write_ne hne, hbits a c hc]
    case kept =>
      rw [List.length_append, List.length_singleton] at ha
      rw [read_write_ne (by omega), hrest a (by omega)]

/-- From an empty block buffer the bits fill the positions in their order (R52). -/
theorem appendBlocks_bits {s : State} (bits : List Bit) (hblen : s.BLEN = 0#5) (hlen : bits.length ≤ 27) :
    ∃ B : Block, appendBlocks (bits.map bitChar) s = { s with BLK := B, BLEN := BitVec.ofNat 5 bits.length } ∧
      (∀ (p : Nat) (b : Bit), bits[p]? = some b → pos B p = b) ∧
      ∀ p, bits.length ≤ p → p < 27 → pos B p = pos s.BLK p := by
  induction bits using List.reverseRecOn with
  | nil => exact ⟨s.BLK, by rw [List.length_nil, ← hblen]; rfl, nofun, fun p _ _ => rfl⟩
  | append_singleton bits b ih =>
    rw [List.length_append, List.length_singleton] at hlen
    obtain ⟨B, hB, hbits, hrest⟩ := ih (by omega)
    have hcount : (BitVec.ofNat 5 bits.length).toNat = bits.length := by
      rw [BitVec.toNat_ofNat]; omega
    refine ⟨setPos B bits.length b, ?state, fun p c hc => ?stored, fun p hp hp27 => ?kept⟩
    case state =>
      rw [List.map_append, appendBlocks_append, hB, List.length_append, BitVec.ofNat_add]
      refine (appendBlock_bitChar b (by rw [hcount]; omega)).trans ?_
      rw [hcount]; rfl
    case stored =>
      rcases getElem?_concat_eq_some hc with ⟨rfl, rfl⟩ | ⟨hne, hc⟩
      · rw [pos_setPos _ _ (by omega), if_pos rfl]
      · have hp : p < bits.length := (List.getElem?_eq_some_iff.mp hc).1
        rw [pos_setPos _ _ (by omega), if_neg hne, hbits p c hc]
    case kept =>
      rw [List.length_append, List.length_singleton] at hp
      rw [pos_setPos _ _ hp27, if_neg (by omega), hrest p (by omega) hp27]

/-- A full key ignores every character (R164). -/
theorem appendKeys_of_full {s : State} (cs : List Character) (h : 2520 ≤ s.KLEN.toNat) : appendKeys cs s = s := by
  induction cs with
  | nil => rfl
  | cons c cs ih => exact (congrArg (appendKeys cs) (appendKey_of_full c h)).trans ih

/-! ### The run that presents them -/

/-- Outside BUSY a command presented with `rst` = 0 is run, and the inputs after it stay. -/
theorem step_command {s : State} (hst : s.ST ≠ .busy) (w : CmdWord) (rest : List HostInput) :
    step (withInputs s (command w :: rest)) = exec (decodeCmd w) (withInputs s rest) :=
  step_host (s := withInputs s (command w :: rest)) rfl hst

/-- The commands that append read and write the engine's registers only, not the inputs to come. -/
theorem appendKey_withInputs (ch : Character) (s : State) (ins : List HostInput) :
    appendKey ch (withInputs s ins) = withInputs (appendKey ch s) ins := by
  by_cases h : s.KLEN.toNat < 2520
  · rw [appendKey_of_lt ch h, appendKey_of_lt (s := withInputs s ins) ch h]; rfl
  · rw [appendKey_of_full ch (Nat.not_lt.mp h), appendKey_of_full (s := withInputs s ins) ch (Nat.not_lt.mp h)]

theorem appendBlock_withInputs (ch : Character) (s : State) (ins : List HostInput) :
    appendBlock ch (withInputs s ins) = withInputs (appendBlock ch s) ins := by
  rcases appendBlock_cases ch s with ⟨h, e⟩ | ⟨h, e⟩ | ⟨h, e⟩
  · rw [e, appendBlock_of_lt (s := withInputs s ins) ch h]; rfl
  · rw [e, appendBlock_of_full (s := withInputs s ins) ch h]; rfl
  · rw [e, appendBlock_of_tooLong (s := withInputs s ins) ch h]

/-- A command with a character operand, presented once for each character of a list: one step a character. -/
theorem run_appends {op : BitVec 4} {f : Character → State → State}
    (hexec : ∀ (ch : Character) (s : State), exec (decodeCmd (cmdWord op ch)) s = .next (whenIdle s (f ch)))
    (hST : ∀ (ch : Character) (s : State), (f ch s).ST = s.ST)
    (hins : ∀ (ch : Character) (s : State) (ins : List HostInput), f ch (withInputs s ins) = withInputs (f ch s) ins)
    {s : State} (hs : s.ST = .idle) (cs : List Character) (rest : List HostInput) :
    run cs.length (withInputs s (cs.map (fun c => command (cmdWord op c)) ++ rest)) =
      .next (withInputs (cs.foldl (fun t ch => f ch t) s) rest) := by
  induction cs generalizing s with
  | nil => rfl
  | cons c cs ih =>
    have hidle (ins : List HostInput) : (withInputs s ins).ST = .idle := hs
    rw [List.map_cons, List.cons_append, List.length_cons]
    have hstep := step_command (s := s) (by rw [hs]; decide) (cmdWord op c)
      (cs.map (fun c => command (cmdWord op c)) ++ rest)
    rw [hexec, whenIdle_idle (hidle _), hins] at hstep
    rw [run_succ _ hstep, ih (by rw [hST, hs]), List.foldl_cons]

theorem run_pushks {s : State} (hs : s.ST = .idle) (cs : List Character) (rest : List HostInput) :
    run cs.length (withInputs s (pushks cs ++ rest)) = .next (withInputs (appendKeys cs s) rest) :=
  run_appends (fun ch s => by rw [decodeCmd_op4, exec_pushk]) appendKey_ST appendKey_withInputs hs cs rest

theorem run_pushbs {s : State} (hs : s.ST = .idle) (cs : List Character) (rest : List HostInput) :
    run cs.length (withInputs s (pushbs cs ++ rest)) = .next (withInputs (appendBlocks cs s) rest) :=
  run_appends (fun ch s => by rw [decodeCmd_op3, exec_pushb]) appendBlock_ST appendBlock_withInputs hs cs rest

/-! ### The obligations -/

/-- Settles O40: the run of the pushes, and where they store. -/
theorem keyPushesFillCellsInOrder : Obligations.KeyPushesFillCellsInOrder := by
  unfold Obligations.KeyPushesFillCellsInOrder
  intro s bits hs hklen _ hlen
  obtain ⟨m, hm, hstored, hkept⟩ := appendKeys_bits bits hklen hlen
  have hrun := run_pushks hs (bits.map bitChar) []
  rw [List.length_map, List.append_nil, hm] at hrun
  exact ⟨m, hrun, hstored, hkept⟩

/-- Settles O41: the run of the pushes, and where they store. -/
theorem blockPushesFillPositionsInOrder : Obligations.BlockPushesFillPositionsInOrder := by
  unfold Obligations.BlockPushesFillPositionsInOrder
  intro s bits hs hblen _ hlen
  obtain ⟨B, hB, hstored, hkept⟩ := appendBlocks_bits bits hblen hlen
  have hrun := run_pushbs hs (bits.map bitChar) []
  rw [List.length_map, List.append_nil, hB] at hrun
  exact ⟨B, hrun, hstored, hkept⟩

end Sys2Proof.Machine

/-! SUPPORT. The operation as a run (42_driver.md R147 to R149, 43_host_commands.md R171): one round step in either
direction, the sequence of rounds whatever the data, the Block after k of them, the whole invocation; and the obligations
about them. -/
namespace Sys2Proof.Machine

/-! ### One round step, in either direction -/

/-- The index of the last round (R147). -/
def lastRound : Direction → BitVec 6
  | .encrypt => 55#6
  | .decrypt => 0#6

/-- The index of the round after r (R147). -/
def nextRound : Direction → BitVec 6 → BitVec 6
  | .encrypt, r => r + 1#6
  | .decrypt, r => r - 1#6

/-- The round function of a direction (R130, R131). -/
def roundFn : Direction → Block → BigKeyBits → SmallKeyBits → Block
  | .encrypt => encr
  | .decrypt => decr

/-- The whole of a step in BUSY (R146), which BusyStepRunsOneRound states by direction. -/
theorem step_round {s : State} {K27 : BigKeyBits} {K18 : SmallKeyBits} (hrst : (sampled s).rst = false)
    (hst : s.ST = .busy) (hr : s.RND.toNat ≤ 55) (hk : holdsRoundKey s.KEY s.RND.toNat K27 K18) :
    step s = .next { s with
      BLK := roundFn s.DIR s.BLK K27 K18
      ST := if s.RND = lastRound s.DIR then .done else .busy
      RND := if s.RND = lastRound s.DIR then s.RND else nextRound s.DIR s.RND
      inputs := s.inputs.tail } := by
  obtain ⟨henc, hdec⟩ := busyStepRunsOneRound s K27 K18 hrst hst hr hk
  cases hd : s.DIR with
  | encrypt => rw [henc hd, hd]; rfl
  | decrypt => rw [hdec hd, hd]; rfl

/-! ### The sequence of rounds (R147) -/

/-- The rounds an operation has left when the next one has index r. -/
def roundsLeft : Direction → BitVec 6 → Nat
  | .encrypt, r => 56 - r.toNat
  | .decrypt, r => r.toNat + 1

theorem roundsLeft_lastRound (d : Direction) : roundsLeft d (lastRound d) = 1 := by cases d <;> rfl

/-- Before the last round, a round leaves one round less. -/
theorem roundsLeft_nextRound {d : Direction} {r : BitVec 6} (hr : r.toNat ≤ 55) (hne : r ≠ lastRound d) :
    (nextRound d r).toNat ≤ 55 ∧ roundsLeft d r = roundsLeft d (nextRound d r) + 1 := by
  cases d with
  | encrypt =>
    have : r.toNat ≠ 55 := fun e => hne (BitVec.eq_of_toNat_eq e)
    have hsucc := toNat_RND_succ (r := r) (by omega)
    simp only [nextRound, roundsLeft, hsucc]
    omega
  | decrypt =>
    have : r.toNat ≠ 0 := fun e => hne (BitVec.eq_of_toNat_eq e)
    have hpred := toNat_RND_pred hne
    simp only [nextRound, roundsLeft, hpred]
    omega

/-- A written window holds some round key pair. -/
theorem exists_holdsRoundKey {m : Memory} {r : Nat} (hr : r ≤ 55) (h : keyWritten m 0 2520) :
    ∃ K27 K18, holdsRoundKey m r K27 K18 := by
  obtain ⟨K27, hbig⟩ := memRead_total (m := m) (addr := 45 * r) (n := 27) (by omega)
    fun a _ ha => h a (Nat.zero_le a) (by omega)
  obtain ⟨K18, hsmall⟩ := memRead_total (m := m) (addr := 45 * r + 27) (n := 18) (by omega)
    fun a _ ha => h a (Nat.zero_le a) (by omega)
  exact ⟨K27, K18, (memRead_ok_iff.mp hbig).2, (memRead_ok_iff.mp hsmall).2⟩

/-- A BUSY engine with a written key, which the host does not reset. -/
structure Running (s : State) : Prop where
  busy : s.ST = .busy
  rnd_le : s.RND.toNat ≤ 55
  written : keyWritten s.KEY 0 2520
  noReset : noReset s.inputs

/-- A step of a running engine moves `ST` and `RND` by the direction and the index alone; before the last round the engine
keeps running. -/
theorem Running.step {s : State} (h : Running s) : ∃ t, step s = .next t ∧ t.DIR = s.DIR ∧
    t.ST = (if s.RND = lastRound s.DIR then .done else .busy) ∧
    t.RND = (if s.RND = lastRound s.DIR then s.RND else nextRound s.DIR s.RND) ∧
    (s.RND ≠ lastRound s.DIR → Running t) := by
  obtain ⟨K27, K18, hk⟩ := exists_holdsRoundKey h.rnd_le h.written
  have hrst : (sampled s).rst = false := sampled_rst_of_noReset s h.noReset
  refine ⟨_, step_round hrst h.busy h.rnd_le hk, rfl, rfl, rfl, fun hne => ?_⟩
  obtain ⟨hnext, -⟩ := roundsLeft_nextRound h.rnd_le hne
  exact {
    busy := if_neg hne
    rnd_le := (congrArg BitVec.toNat (if_neg hne)).trans_le hnext
    written := h.written
    noReset := noReset_tail h.noReset }

/-- Two running engines in the same round of the same direction stay together to the end of their operations. -/
theorem Running.run_together {s s' : State} {k : Nat} (h : Running s) (h' : Running s') (hdir : s.DIR = s'.DIR)
    (hrnd : s.RND = s'.RND) (hk : k ≤ roundsLeft s.DIR s.RND) :
    ∃ t t', run k s = .next t ∧ run k s' = .next t' ∧ t.ST = t'.ST ∧ t.DIR = t'.DIR ∧ t.RND = t'.RND := by
  induction k generalizing s s' with
  | zero => exact ⟨s, s', rfl, rfl, by rw [h.busy, h'.busy], hdir, hrnd⟩
  | succ k ih =>
    obtain ⟨u, hu, hudir, hust, hurnd, hgo⟩ := h.step
    obtain ⟨u', hu', hudir', hust', hurnd', hgo'⟩ := h'.step
    rw [← hdir] at hudir'
    rw [← hdir, ← hrnd] at hust' hurnd' hgo'
    rw [run_succ k hu, run_succ k hu']
    by_cases hlast : s.RND = lastRound s.DIR
    · rw [hlast, roundsLeft_lastRound] at hk
      obtain rfl : k = 0 := by omega
      exact ⟨u, u', rfl, rfl, hust.trans hust'.symm, hudir.trans hudir'.symm, hurnd.trans hurnd'.symm⟩
    · obtain ⟨-, hleft⟩ := roundsLeft_nextRound h.rnd_le hlast
      refine ih (hgo hlast) (hgo' hlast) (hudir.trans hudir'.symm) (hurnd.trans hurnd'.symm) ?_
      rw [hurnd, if_neg hlast, hudir]
      omega

/-! ### The Block after k rounds (R148, R149) -/

section
variable (d : Direction) {k : Nat}

/-- The index stays a round's (R28). -/
theorem rndAfter_le : (rndAfter d k).toNat ≤ 55 := by
  cases d <;> rw [rndAfter, BitVec.toNat_ofNat] <;> omega

theorem rndAfter_eq_lastRound_iff (hk : k < 56) : rndAfter d k = lastRound d ↔ k = 55 := by
  rw [← BitVec.toNat_inj]
  cases d <;> rw [rndAfter, lastRound, BitVec.toNat_ofNat, BitVec.toNat_ofNat] <;> omega

theorem nextRound_rndAfter (hk : k < 55) : nextRound d (rndAfter d k) = rndAfter d (k + 1) := by
  have hne : rndAfter d k ≠ lastRound d := fun e => by
    have := (rndAfter_eq_lastRound_iff d (by omega)).mp e
    omega
  apply BitVec.eq_of_toNat_eq
  cases d with
  | encrypt =>
    rw [nextRound, toNat_RND_succ (lt_of_le_of_lt (rndAfter_le .encrypt) (by decide)), rndAfter, rndAfter,
      BitVec.toNat_ofNat, BitVec.toNat_ofNat]
    omega
  | decrypt =>
    rw [nextRound, toNat_RND_pred hne, rndAfter, rndAfter, BitVec.toNat_ofNat, BitVec.toNat_ofNat]
    omega

/-- The round that follows k of them takes the key slices of its index. -/
theorem roundsDone_succ (B : Block) (K : BitSeq 2520) (hk : k < 56) : roundsDone d B K (k + 1) =
    roundFn d (roundsDone d B K k) (bigKey K (rndAfter d k).toNat) (smallKey K (rndAfter d k).toNat) := by
  cases d with
  | encrypt =>
    have hindex : (rndAfter .encrypt k).toNat = k := by rw [rndAfter, BitVec.toNat_ofNat]; omega
    rw [hindex]; rfl
  | decrypt =>
    have hindex : (rndAfter .decrypt k).toNat = 55 - k := by rw [rndAfter, BitVec.toNat_ofNat]; omega
    rw [hindex]; rfl

end

/-- The state k rounds after a start with Block `s.BLK` and key K (R148). -/
def afterRounds (d : Direction) (s : State) (K : BitSeq 2520) (k : Nat) : State :=
  { s with
    BLK := roundsDone d s.BLK K k
    ST := if k = 56 then .done else .busy
    DIR := d
    RND := rndAfter d k }

theorem holdsRoundKey_of_holdsKey {m : Memory} {K : BitSeq 2520} {r : Nat} (h : holdsKey m K) (hr : r ≤ 55) :
    holdsRoundKey m r (bigKey K r) (smallKey K r) :=
  ⟨fun p hp => by rw [bigKey, pos_slice K hp, h _ (by omega)], fun q hq => by rw [smallKey, pos_slice K hq, h _ (by omega)]⟩

theorem start_eq_afterRounds (d : Direction) (s : State) (K : BitSeq 2520) : start d s = afterRounds d s K 0 := by
  cases d <;> rfl

/-- What the next round makes of the Block, `ST` and `RND`. -/
theorem afterRounds_succ (d : Direction) (s : State) (K : BitSeq 2520) {k : Nat} (hk : k < 56) : afterRounds d s K (k + 1) =
    { s with
      BLK := roundFn d (roundsDone d s.BLK K k) (bigKey K (rndAfter d k).toNat) (smallKey K (rndAfter d k).toNat)
      ST := if rndAfter d k = lastRound d then .done else .busy
      DIR := d
      RND := if rndAfter d k = lastRound d then rndAfter d k else nextRound d (rndAfter d k) } := by
  rw [afterRounds, roundsDone_succ d s.BLK K hk]
  by_cases h55 : k = 55
  · have hlast : rndAfter d k = lastRound d := (rndAfter_eq_lastRound_iff d hk).mpr h55
    have hstays : rndAfter d (k + 1) = rndAfter d k := by rw [h55]; cases d <;> rfl
    rw [if_pos (by omega), if_pos hlast, if_pos hlast, hstays]
  · have hlast : rndAfter d k ≠ lastRound d := mt (rndAfter_eq_lastRound_iff d hk).mp h55
    rw [if_neg (by omega), if_neg hlast, if_neg hlast, nextRound_rndAfter d (by omega)]

/-- One step of a started operation runs its next round. -/
theorem step_afterRounds {d : Direction} {s : State} {K : BitSeq 2520} {k : Nat} {ins : List HostInput}
    (hK : holdsKey s.KEY K) (hrst : noReset ins) (hk : k < 56) :
    step (withInputs (afterRounds d s K k) ins) = .next (withInputs (afterRounds d s K (k + 1)) ins.tail) := by
  have hbusy : (withInputs (afterRounds d s K k) ins).ST = .busy := if_neg hk.ne
  rw [afterRounds_succ d s K hk]
  exact step_round (sampled_rst_of_noReset _ hrst) hbusy (rndAfter_le d)
    (holdsRoundKey_of_holdsKey hK (rndAfter_le d))

/-- k ≤ 56 steps of a started operation, whatever words the host presents (R148, R149). -/
theorem run_rounds {d : Direction} {s : State} {K : BitSeq 2520} {k : Nat} {ins : List HostInput}
    (hK : holdsKey s.KEY K) (hrst : noReset ins) (hk : k ≤ 56) :
    run k (withInputs (start d s) ins) = .next (withInputs (afterRounds d s K k) (ins.drop k)) := by
  induction k with
  | zero => rw [start_eq_afterRounds d s K]; rfl
  | succ k ih =>
    have hrst' : noReset (ins.drop k) := fun x hx => hrst x (List.mem_of_mem_drop hx)
    rw [run_add 1 (ih (by omega)), run_succ 0 (step_afterRounds hK hrst' (by omega)), run_zero, List.tail_drop]

/-- The start of an operation is accepted with a valid block and key. -/
theorem step_startCommand {d : Direction} {s : State} (ins : List HostInput) (hs : s.ST = .idle) (hblen : s.BLEN = 27#5)
    (hbbad : s.BBAD = false) (hklen : s.KLEN = 2520#12) (hkbad : s.KBAD = false) :
    step (withInputs s (startCommand d :: ins)) = .next (withInputs (start d s) ins) := by
  have hbusy : s.ST ≠ .busy := by rw [hs]; decide
  have hidle : (withInputs s ins).ST = .idle := hs
  have hstart : startOrRaise d (withInputs s ins) = withInputs (start d s) ins :=
    startOrRaise_of_full d hblen hbbad hklen hkbad
  cases d with
  | encrypt =>
    have henc : decodeCmd 0x500#12 = .enc := by decide
    rw [startCommand, step_command hbusy, henc, exec_enc_idle hidle, hstart]
  | decrypt =>
    have hdec : decodeCmd 0x600#12 = .dec := by decide
    rw [startCommand, step_command hbusy, hdec, exec_dec_idle hidle, hstart]

/-- A start and k ≤ 56 rounds. -/
theorem run_operation {d : Direction} {s : State} {K : BitSeq 2520} {k : Nat} {ins : List HostInput} (hs : s.ST = .idle)
    (hblen : s.BLEN = 27#5) (hbbad : s.BBAD = false) (hklen : s.KLEN = 2520#12) (hkbad : s.KBAD = false)
    (hK : holdsKey s.KEY K) (hrst : noReset ins) (hk : k ≤ 56) :
    run (1 + k) (withInputs s (startCommand d :: ins)) = .next (withInputs (afterRounds d s K k) (ins.drop k)) := by
  rw [Nat.add_comm, run_succ k (step_startCommand ins hs hblen hbbad hklen hkbad), run_rounds hK hrst hk]

/-! ### Loading a key and a block (R171) -/

theorem getElem?_eq_some_getD {l : List Bit} {i : Nat} (h : i < l.length) : l[i]? = some (l.getD i false) := by
  rw [List.getElem?_eq_getElem h, List.getD_eq_getElem l false h]

/-- `LOADK` with at least 2520 bits leaves a full, valid key, the first 2520 of them. -/
theorem run_loadk {s : State} {bits : List Bit} (rest : List HostInput) (hs : s.ST = .idle) (hlen : 2520 ≤ bits.length) :
    ∃ m : Memory, holdsKey m (ofPos 2520 fun a => bits.getD a false) ∧
      run (1 + bits.length) (withInputs s (loadk (bits.map bitChar) ++ rest)) =
        .next (withInputs { s with KEY := m, KLEN := 2520#12, KBAD := false } rest) := by
  have hlen' : (bits.take 2520).length = 2520 := List.length_take_of_le hlen
  obtain ⟨m, hm, hstored, -⟩ := appendKeys_bits (s := clearKey s) (bits.take 2520) rfl hlen'.le
  have hfull : appendKeys (bits.map bitChar) (clearKey s) = { s with KEY := m, KLEN := 2520#12, KBAD := false } := by
    rw [← List.take_append_drop 2520 bits, List.map_append, appendKeys_append, hm, hlen']
    exact appendKeys_of_full _ (le_refl 2520)
  refine ⟨m, fun a ha => ?key, ?run⟩
  case key =>
    rw [pos_ofPos _ ha]
    exact hstored a _ (by rw [List.getElem?_take_of_lt ha]; exact getElem?_eq_some_getD (by omega))
  case run =>
    have hclrk : decodeCmd 0x200#12 = .clrk := by decide
    have hclear : step (withInputs s (loadk (bits.map bitChar) ++ rest)) =
        .next (withInputs (clearKey s) (pushks (bits.map bitChar) ++ rest)) := by
      refine (step_command (by rw [hs]; decide) _ _).trans ?_
      rw [hclrk, exec_clrk, whenIdle_idle (by rw [withInputs_ST, hs])]; rfl
    have hpush := run_pushks (s := clearKey s) hs (bits.map bitChar) rest
    rw [List.length_map] at hpush
    rw [Nat.add_comm, run_succ _ hclear, hpush, hfull]

/-- `LOADB` with 27 bits leaves a full, valid block buffer. -/
theorem run_loadb {s : State} {bits : List Bit} (rest : List HostInput) (hs : s.ST = .idle) (hlen : bits.length = 27) :
    run (1 + 27) (withInputs s (loadb (bits.map bitChar) ++ rest)) =
      .next (withInputs { s with BLK := ofPos 27 fun p => bits.getD p false, BLEN := 27#5, BBAD := false } rest) := by
  obtain ⟨B, hB, hstored, -⟩ := appendBlocks_bits (s := clearBlock s) bits rfl hlen.le
  have hblock : B = ofPos 27 fun p => bits.getD p false := seq_ext fun p hp => by
    rw [pos_ofPos _ hp]
    exact hstored p _ (getElem?_eq_some_getD (by omega))
  have hfull : appendBlocks (bits.map bitChar) (clearBlock s) =
      { s with BLK := ofPos 27 fun p => bits.getD p false, BLEN := 27#5, BBAD := false } := by
    rw [hB, hblock, hlen]; rfl
  have hclrb : decodeCmd 0x100#12 = .clrb := by decide
  have hclear : step (withInputs s (loadb (bits.map bitChar) ++ rest)) =
      .next (withInputs (clearBlock s) (pushbs (bits.map bitChar) ++ rest)) := by
    refine (step_command (by rw [hs]; decide) _ _).trans ?_
    rw [hclrb, exec_clrb, whenIdle_idle (by rw [withInputs_ST, hs])]; rfl
  have hpush := run_pushbs (s := clearBlock s) hs (bits.map bitChar) rest
  rw [List.length_map, hlen] at hpush
  rw [Nat.add_comm, run_succ _ hclear, hpush, hfull]

theorem noReset_wait (n : Nat) : noReset (wait n) := fun x hx => by rw [List.eq_of_mem_replicate hx]; rfl

/-! ### The obligations -/

/-- Settles O51: the next `ST` and `RND` of a running engine are functions of `DIR` and `RND`. -/
theorem controlIsIndependentOfData : Obligations.ControlIsIndependentOfData := by
  unfold Obligations.ControlIsIndependentOfData
  intro s s' ins ins' k hs hs' hdir hrnd hr hw hw' hrst hrst' hk
  have hrun : Running (withInputs s ins) := ⟨hs, hr, hw, hrst⟩
  have hrun' : Running (withInputs s' ins') := ⟨hs', by rwa [withInputs_RND, ← hrnd], hw', hrst'⟩
  have hleft : k ≤ roundsLeft s.DIR s.RND := by
    cases hd : s.DIR with
    | encrypt => rwa [hd] at hk
    | decrypt => rwa [hd] at hk
  exact hrun.run_together hrun' hdir hrnd hleft

/-- Settles O57: the run of the start and k rounds ends in `afterRounds`, and all 56 rounds are the cipher. -/
theorem machineComputesTheCipher : Obligations.MachineComputesTheCipher := by
  unfold Obligations.MachineComputesTheCipher
  intro d s K ins k hs hblen hbbad hklen hkbad hK hrst hk
  refine ⟨_, run_operation hs hblen hbbad hklen hkbad hK hrst hk, rfl, ?value⟩
  case value =>
    rintro rfl
    refine ⟨?_, ?_⟩
    · rintro rfl
      exact ⟨rfl, outputs_res_done rfl⟩
    · rintro rfl
      exact ⟨rfl, outputs_res_done rfl⟩

/-- Settles O58: the run of the listing is the runs of its four lines, one after the other. -/
theorem invocationYieldsTheResult : Obligations.InvocationYieldsTheResult := by
  unfold Obligations.InvocationYieldsTheResult
  intro d s key block hs hkey hblock
  rw [invocation, List.append_assoc, Nat.add_assoc _ 1 56]
  obtain ⟨m, hm, hloadk⟩ := run_loadk (loadb (block.map bitChar) ++ startCommand d :: wait 56) hs hkey
  have hloadb := run_loadb (s := { s with KEY := m, KLEN := 2520#12, KBAD := false }) (startCommand d :: wait 56) hs hblock
  refine ⟨_, (run_add _ ((run_add _ hloadk).trans hloadb)).trans
    (run_operation hs rfl rfl rfl rfl hm (noReset_wait 56) (le_refl 56)), rfl, rfl, outputs_res_done rfl⟩

end Sys2Proof.Machine
